-- ==== Sys2Proof/Word.lean ====
section
/-! DEFINITION. The plain words of the block and its fixed constants (00_scope.md R6, R9). -/

namespace Sys2Proof

/-- A byte is 8 bits (00_scope.md R9). -/
abbrev Byte := BitVec 8

/-- A source or destination address: one byte of the identifier (30_encoding.md R81). -/
abbrev Addr := BitVec 8

/-- A transfer's target PGN as CM bytes 5 to 7 carry it (30_encoding.md R86). -/
abbrev Pgn := BitVec 24

/-- A 29-bit CAN identifier, moved as a value (20_memory.md R64). -/
abbrev CanId := BitVec 29

/-- A time in milliseconds, unbounded in the model (10_state.md R26; log 6). -/
abbrev Millis := Nat

/-- L_MIN: the smallest length of a transfer (00_scope.md R6). -/
abbrev lMin : Nat := 9

/-- L_MAX: the largest length of a transfer (00_scope.md R6). -/
abbrev lMax : Nat := 1785

/-- SEG_BYTES: the data bytes of one DT segment (00_scope.md R6). -/
abbrev segBytes : Nat := 7

/-- ADDR_GLOBAL: the global destination (00_scope.md R6). -/
abbrev addrGlobal : Addr := 0xFF

/-- The value of reserved and padding bytes (00_scope.md R6). -/
abbrev fillByte : Byte := 0xFF

end Sys2Proof
end

