-- ==== Sys2Proof/Config.lean ====
section
/-! DEFINITION. The configuration record CFG (00_scope.md R7), its default values, and the one free value of the model:
what the Frame I/O adapter answers once the answers written out in the state are used up. -/

namespace Sys2Proof

/-- The adapter's answer to one `tx` (42_session_fsm.md R162): the whole frame was sent, fewer than 8 bytes were
written, or the call failed. -/
inductive TxResult where
  | ok
  | partialWrite
  | ioErr
  deriving DecidableEq, Repr, Inhabited

/-- The configuration record CFG, one field per row of the table of 00_scope.md R7. -/
structure Config where
  /-- N_SESSIONS: number of session slots. -/
  nSessions : Nat
  /-- MAX_RX_LEN: largest total_len a receiver accepts. -/
  maxRxLen : Nat
  /-- WAIT_CTS: whether a connection-mode sender waits for a CTS. -/
  waitCts : Bool
  /-- T1_MS: receiver wait for the next DT in RECEIVING_DATA. -/
  t1 : Millis
  /-- T2_MS: receiver wait for the first DT in CTS_SENT. -/
  t2 : Millis
  /-- T3_MS: sender wait for a CTS in RTS_SENT. -/
  t3 : Millis
  /-- BAM_DELAY_MS: smallest gap between the BAM-mode frames of one session. -/
  bamDelay : Millis
  /-- T_OVERALL_MS: overall lifetime limit of a session, 0 = disabled. -/
  tOverall : Millis
  /-- REPLY_PRIO: priority of receiver-side frames. -/
  replyPrio : BitVec 3
  /-- PGN_TPCM: PGN of CM frames. -/
  pgnTpcm : BitVec 18
  /-- PGN_TPDT: PGN of DT frames. -/
  pgnTpdt : BitVec 18
  /-- RSN_BUSY. -/
  rsnBusy : Byte
  /-- RSN_RESOURCES. -/
  rsnResources : Byte
  /-- RSN_TIMEOUT. -/
  rsnTimeout : Byte
  /-- RSN_UNEXPECTED_DATA. -/
  rsnUnexpectedData : Byte
  /-- RSN_SEQUENCE_ERROR. -/
  rsnSequenceError : Byte
  /-- RSN_DUPLICATE_SEQUENCE: a parameter no rule sends (90_conflicts.md C3). -/
  rsnDuplicateSequence : Byte
  /-- RSN_CANCEL: reason of an external cancellation. -/
  rsnCancel : Byte
  deriving DecidableEq, Repr

/-- The default column of 00_scope.md R7. DESIGN CHOICE (log 9): State.reset latches these. -/
def Config.default : Config where
  nSessions := 4
  maxRxLen := 1785
  waitCts := false
  t1 := 750
  t2 := 1250
  t3 := 1250
  bamDelay := 50
  tOverall := 0
  replyPrio := 7
  pgnTpcm := 0x00EC00
  pgnTpdt := 0x00EB00
  rsnBusy := 1
  rsnResources := 2
  rsnTimeout := 3
  rsnUnexpectedData := 6
  rsnSequenceError := 7
  rsnDuplicateSequence := 8
  rsnCancel := 2

/-- FREE VALUE (log 2): the adapter's answer number n once the list of answers in the state is used up. A draw of
{OK, PARTIAL, IOERR} (00_scope.md R12; 93_implementation_defined.md U15), so it has no body. -/
opaque Config.freeTxResult : Nat → TxResult

end Sys2Proof
end

