-- ==== Sys2Proof/Syntax.lean ====
section
/-! DEFINITION. The syntax: frames, host command records, what the environment hands to the block, and Instr, one
constructor per row of spec/opcode_table.json. -/

namespace Sys2Proof

/-- The 8 data bytes of a frame, byte 0 first on the wire (00_scope.md R9; 30_encoding.md R80). -/
structure Data8 where
  b0 : Byte
  b1 : Byte
  b2 : Byte
  b3 : Byte
  b4 : Byte
  b5 : Byte
  b6 : Byte
  b7 : Byte
  deriving DecidableEq, Repr

/-- A CAN frame: extended flag, 29-bit identifier, 8 data bytes (30_encoding.md R80). -/
structure Frame where
  ext : Bool
  id : CanId
  data : Data8
  deriving DecidableEq, Repr

/-- The role of a session (10_state.md R22). -/
inductive Role where
  | sender
  | receiver
  deriving DecidableEq, Repr

/-- A host command record: the 4-bit cmd_op and the operand fields of every command (30_encoding.md R92). A command
reads only the fields its row of R92 names. -/
structure CmdWord where
  op : BitVec 4
  now : Millis
  src : Addr
  dst : Addr
  role : BitVec 1
  prio : BitVec 3
  pgn : Pgn
  payload : List Byte
  frame : Frame
  deriving DecidableEq, Repr

/-- An input word of the block: a host command record, or a received CAN frame with the time at which the host
delivers it (30_encoding.md, opening words and R90). -/
inductive InputWord where
  | command (c : CmdWord)
  | frame (now : Millis) (f : Frame)
  deriving DecidableEq, Repr

/-- What the environment does to the block: it delivers an input word, or it applies a reset with a configuration
(70_reset_and_hazards.md R300, R301). -/
inductive Event where
  | word (w : InputWord)
  | reset (cfg : Config)
  deriving DecidableEq, Repr

/-- The instructions: one constructor per row of spec/opcode_table.json.
The five CM rows and DT are received frames with their decoded fields (30_encoding.md R89) and the `now` of their
delivery; the four host commands have the operands of 30_encoding.md R92. -/
inductive Instr where
  /-- CM.RTS: SA, DA, total_len, num_packets, pgn (40_cm_codec.md R118). -/
  | cmRts (now : Millis) (sa da : Addr) (len np : Nat) (pgn : Pgn)
  /-- CM.CTS: SA, DA, num_packets_to_send, next_packet_to_send, pgn (40_cm_codec.md R119). -/
  | cmCts (now : Millis) (sa da : Addr) (n nextSeq : Nat) (pgn : Pgn)
  /-- CM.EOM_ACK: SA, DA, total_len, num_packets, pgn (40_cm_codec.md R120). -/
  | cmEomAck (now : Millis) (sa da : Addr) (len np : Nat) (pgn : Pgn)
  /-- CM.BAM: SA, DA, total_len, num_packets, pgn (40_cm_codec.md R121). -/
  | cmBam (now : Millis) (sa da : Addr) (len np : Nat) (pgn : Pgn)
  /-- CM.ABORT: SA, DA, reason, pgn (40_cm_codec.md R122). -/
  | cmAbort (now : Millis) (sa da : Addr) (reason : Byte) (pgn : Pgn)
  /-- DT: SA, DA, sequence number, the seven bytes p1..p7 (41_dt_codec.md R144). -/
  | dt (now : Millis) (sa da : Addr) (seq : Nat) (p : List Byte)
  /-- SEND: src, dst, prio, pgn, payload (43_session_table.md R237). -/
  | send (now : Millis) (src dst : Addr) (prio : BitVec 3) (pgn : Pgn) (payload : List Byte)
  /-- CANCEL: src, dst, role (43_session_table.md R238). -/
  | cancel (now : Millis) (src dst : Addr) (role : Role)
  /-- RX_FRAME: a received frame of any kind (43_session_table.md R239). -/
  | rxFrame (now : Millis) (f : Frame)
  /-- POLL (43_session_table.md R247). -/
  | poll (now : Millis)
  deriving DecidableEq, Repr

end Sys2Proof
end

