-- ==== Sys2Proof/WellFormed.lean ====
section
/-! DEFINITION. Which instructions an encoding exists for: the widths of 30_encoding.md R89 and R92 that the types of
Instr do not already fix. -/

namespace Sys2Proof

/-- A decoded total_len is 16 bits (30_encoding.md R89). -/
abbrev fitsLen (len : Nat) : Bool := decide (len < 65536)

/-- num_packets, n, next and seq are one byte (30_encoding.md R89). -/
abbrev fitsByte (k : Nat) : Bool := decide (k < 256)

/-- A DT frame carries exactly the seven bytes p1..p7 (30_encoding.md R88). -/
abbrev fitsSegment (p : List Byte) : Bool := decide (p.length = segBytes)

/-- Every operand fits the field its encoding gives it. The host commands have no operand a type does not bound:
a payload may have any length (30_encoding.md R92). -/
def Instr.wellFormed : Instr → Bool
  | .cmRts _ _ _ len np _ => fitsLen len && fitsByte np
  | .cmCts _ _ _ n nextSeq _ => fitsByte n && fitsByte nextSeq
  | .cmEomAck _ _ _ len np _ => fitsLen len && fitsByte np
  | .cmBam _ _ _ len np _ => fitsLen len && fitsByte np
  | .cmAbort _ _ _ _ _ => true
  | .dt _ _ _ seq p => fitsByte seq && fitsSegment p
  | .send _ _ _ _ _ _ => true
  | .cancel _ _ _ _ => true
  | .rxFrame _ _ => true
  | .poll _ => true

end Sys2Proof
end

