-- ==== Sys2Proof/Decode.lean ====
section
/-! DEFINITION. The codec: frame classes, the TP.CM codec, the DT decoder, the decoder of input words and the encoder
(30_encoding.md R80–R99; 40_cm_codec.md R110–R125; 41_dt_codec.md R144). Decoding is total and refuses by name. -/

namespace Sys2Proof

/-! ### Byte assembly (00_scope.md R9) -/

/-- LE16. -/
def le16 (lo hi : Byte) : Nat := lo.toNat + 256 * hi.toNat

/-- LE24. -/
def le24 (lo mid hi : Byte) : Pgn := hi ++ mid ++ lo

/-- `v[7:0]` of a natural. -/
def byte0 (v : Nat) : Byte := BitVec.ofNat 8 v

/-- `v[15:8]` of a natural. -/
def byte1 (v : Nat) : Byte := BitVec.ofNat 8 (v / 256)

/-- The integer view D of the 8 data bytes, for match and mask only: byte k is D[8k+7:8k] (30_encoding.md R85). -/
def Data8.toWord (d : Data8) : BitVec 64 :=
  d.b7 ++ d.b6 ++ d.b5 ++ d.b4 ++ d.b3 ++ d.b2 ++ d.b1 ++ d.b0

/-- The 8 data bytes of an integer view. -/
def Data8.ofWord (w : BitVec 64) : Data8 where
  b0 := w.extractLsb' 0 8
  b1 := w.extractLsb' 8 8
  b2 := w.extractLsb' 16 8
  b3 := w.extractLsb' 24 8
  b4 := w.extractLsb' 32 8
  b5 := w.extractLsb' 40 8
  b6 := w.extractLsb' 48 8
  b7 := w.extractLsb' 56 8

/-! ### The identifier (30_encoding.md R81–R84) -/

/-- mk_id: priority, P[17:8], destination, source (30_encoding.md R82; PRESUMED by the spec, log 13). -/
def mkId (prio : BitVec 3) (pgn : BitVec 18) (da sa : Addr) : CanId :=
  prio ++ pgn.extractLsb' 8 10 ++ da ++ sa

/-- SA = id[7:0] (30_encoding.md R84). -/
def sourceAddr (id : CanId) : Addr := id.extractLsb' 0 8

/-- DA = id[15:8] (30_encoding.md R84). -/
def destAddr (id : CanId) : Addr := id.extractLsb' 8 8

/-- The bits of the identifier that classification reads, id[25:16] (30_encoding.md R83). -/
def classBits (id : CanId) : BitVec 10 := id.extractLsb' 16 10

/-- The class of a received frame (30_encoding.md R83). -/
inductive FrameClass where
  | cm
  | dt
  | notTp
  deriving DecidableEq, Repr

/-- class(f) (30_encoding.md R83). -/
def classify (cfg : Config) (f : Frame) : FrameClass :=
  if f.ext = true ∧ classBits f.id = cfg.pgnTpcm.extractLsb' 8 10 then .cm
  else if f.ext = true ∧ classBits f.id = cfg.pgnTpdt.extractLsb' 8 10 then .dt
  else .notTp

/-! ### The TP.CM codec (40_cm_codec.md) -/

/-- cm_bytes (40_cm_codec.md R110). -/
def cmBytes (c f1 f2 f3 f4 : Byte) (pgn : Pgn) : Data8 where
  b0 := c
  b1 := f1
  b2 := f2
  b3 := f3
  b4 := f4
  b5 := pgn.extractLsb' 0 8
  b6 := pgn.extractLsb' 8 8
  b7 := pgn.extractLsb' 16 8

/-- ENC_RTS (40_cm_codec.md R112). -/
def encRts (len np : Nat) (pgn : Pgn) : Data8 :=
  cmBytes 0x10 (byte0 len) (byte1 len) (byte0 np) fillByte pgn

/-- ENC_CTS (40_cm_codec.md R113). -/
def encCts (n nextSeq : Nat) (pgn : Pgn) : Data8 :=
  cmBytes 0x11 (byte0 n) (byte0 nextSeq) fillByte fillByte pgn

/-- ENC_EOM_ACK (40_cm_codec.md R114). -/
def encEomAck (len np : Nat) (pgn : Pgn) : Data8 :=
  cmBytes 0x13 (byte0 len) (byte1 len) (byte0 np) fillByte pgn

/-- ENC_BAM (40_cm_codec.md R115). -/
def encBam (len np : Nat) (pgn : Pgn) : Data8 :=
  cmBytes 0x20 (byte0 len) (byte1 len) (byte0 np) fillByte pgn

/-- ENC_ABORT (40_cm_codec.md R116). -/
def encAbort (reason : Byte) (pgn : Pgn) : Data8 :=
  cmBytes 0xFF reason fillByte fillByte fillByte pgn

/-- CmMsg, the closed type of decoded CM messages (40_cm_codec.md R117). -/
inductive CmMsg where
  | rts (len np : Nat) (pgn : Pgn)
  | cts (n nextSeq : Nat) (pgn : Pgn)
  | eomAck (len np : Nat) (pgn : Pgn)
  | bam (len np : Nat) (pgn : Pgn)
  | abort (reason : Byte) (pgn : Pgn)
  | malformed (ctl : Byte) (pgn : Pgn)
  deriving DecidableEq, Repr

/-- DEC_CM: byte 0 selects the kind; the reserved bytes are not read (40_cm_codec.md R117–R124). -/
def decCm (d : Data8) : CmMsg :=
  let pgn := le24 d.b5 d.b6 d.b7
  if d.b0 = 0x10 then .rts (le16 d.b1 d.b2) d.b3.toNat pgn
  else if d.b0 = 0x11 then .cts d.b1.toNat d.b2.toNat pgn
  else if d.b0 = 0x13 then .eomAck (le16 d.b1 d.b2) d.b3.toNat pgn
  else if d.b0 = 0x20 then .bam (le16 d.b1 d.b2) d.b3.toNat pgn
  else if d.b0 = 0xFF then .abort d.b1 pgn
  else .malformed d.b0 pgn

/-! ### The DT format (30_encoding.md R88) -/

/-- A DT frame's data: the segment index in byte 0, then the payload bytes, right-padded to 7 bytes with 0xFF
(30_encoding.md R88; 41_dt_codec.md R142; 90_conflicts.md C1). -/
def dtBytes (seq : Nat) (p : List Byte) : Data8 where
  b0 := byte0 seq
  b1 := p.getD 0 fillByte
  b2 := p.getD 1 fillByte
  b3 := p.getD 2 fillByte
  b4 := p.getD 3 fillByte
  b5 := p.getD 4 fillByte
  b6 := p.getD 5 fillByte
  b7 := p.getD 6 fillByte

/-- The sequence number of DEC_DT (41_dt_codec.md R144). -/
def dtSeq (d : Data8) : Nat := d.b0.toNat

/-- The bytes p1..p7 of DEC_DT (41_dt_codec.md R144). -/
def dtPayload (d : Data8) : List Byte := [d.b1, d.b2, d.b3, d.b4, d.b5, d.b6, d.b7]

/-! ### The decoder of input words (30_encoding.md R90, R91, R99) -/

/-- Why an input word is no row of the opcode table (30_encoding.md R91 (a), (d), (e)). Each still has an effect,
which Machine/Receive.lean gives it. -/
inductive Reject where
  /-- A reserved cmd_op: 0x0, 0x5..0xF. -/
  | badCommand (op : BitVec 4)
  /-- A frame of class NOT_TP. -/
  | notTp
  /-- A CM frame with an unknown control byte. -/
  | malformedCm (ctl : Byte)
  deriving DecidableEq, Repr

/-- The role operand: 0 SENDER, 1 RECEIVER (30_encoding.md R92). -/
def roleOfBit (b : BitVec 1) : Role := if b = 0 then .sender else .receiver

/-- The bit of a role operand (30_encoding.md R92). -/
def bitOfRole : Role → BitVec 1
  | .sender => 0
  | .receiver => 1

/-- A host command record is selected by cmd_op (30_encoding.md R93). -/
def decodeCommand (c : CmdWord) : Except Reject Instr :=
  if c.op = 0x1 then .ok (.send c.now c.src c.dst c.prio c.pgn c.payload)
  else if c.op = 0x2 then .ok (.cancel c.now c.src c.dst (roleOfBit c.role))
  else if c.op = 0x3 then .ok (.rxFrame c.now c.frame)
  else if c.op = 0x4 then .ok (.poll c.now)
  else .error (.badCommand c.op)

/-- A decoded CM message as an instruction (30_encoding.md R90). -/
def instrOfCm (now : Millis) (sa da : Addr) : CmMsg → Except Reject Instr
  | .rts len np pgn => .ok (.cmRts now sa da len np pgn)
  | .cts n nextSeq pgn => .ok (.cmCts now sa da n nextSeq pgn)
  | .eomAck len np pgn => .ok (.cmEomAck now sa da len np pgn)
  | .bam len np pgn => .ok (.cmBam now sa da len np pgn)
  | .abort reason pgn => .ok (.cmAbort now sa da reason pgn)
  | .malformed ctl _ => .error (.malformedCm ctl)

/-- A received frame is decoded by class, then for CM by byte 0 (30_encoding.md R90). -/
def decodeFrame (cfg : Config) (now : Millis) (f : Frame) : Except Reject Instr :=
  match classify cfg f with
  | .cm => instrOfCm now (sourceAddr f.id) (destAddr f.id) (decCm f.data)
  | .dt => .ok (.dt now (sourceAddr f.id) (destAddr f.id) (dtSeq f.data) (dtPayload f.data))
  | .notTp => .error .notTp

/-- The decoder: every input word is one row of the opcode table or one refused form (30_encoding.md R90, R99). -/
def decode (cfg : Config) : InputWord → Except Reject Instr
  | .command c => decodeCommand c
  | .frame now f => decodeFrame cfg now f

/-! ### The encoder -/

/-- The record whose operand fields are all zero. -/
def CmdWord.zero (op : BitVec 4) (now : Millis) : CmdWord where
  op := op
  now := now
  src := 0
  dst := 0
  role := 0
  prio := 0
  pgn := 0
  payload := []
  frame := ⟨false, 0, Data8.ofWord 0⟩

/-- A CM frame (40_cm_codec.md R111). -/
def cmFrame (cfg : Config) (prio : BitVec 3) (da sa : Addr) (d : Data8) : Frame :=
  ⟨true, mkId prio cfg.pgnTpcm da sa, d⟩

/-- A DT frame (41_dt_codec.md R143). -/
def dtFrame (cfg : Config) (prio : BitVec 3) (da sa : Addr) (d : Data8) : Frame :=
  ⟨true, mkId prio cfg.pgnTpdt da sa, d⟩

/-- The input word of an instruction. DESIGN CHOICE (log 11): a frame is encoded at priority REPLY_PRIO and with 0xFF in
its reserved bytes, since no rule reads either (30_encoding.md R84, R91 (b)). -/
def encode (cfg : Config) : Instr → InputWord
  | .cmRts now sa da len np pgn => .frame now (cmFrame cfg cfg.replyPrio da sa (encRts len np pgn))
  | .cmCts now sa da n nextSeq pgn => .frame now (cmFrame cfg cfg.replyPrio da sa (encCts n nextSeq pgn))
  | .cmEomAck now sa da len np pgn => .frame now (cmFrame cfg cfg.replyPrio da sa (encEomAck len np pgn))
  | .cmBam now sa da len np pgn => .frame now (cmFrame cfg cfg.replyPrio da sa (encBam len np pgn))
  | .cmAbort now sa da reason pgn => .frame now (cmFrame cfg cfg.replyPrio da sa (encAbort reason pgn))
  | .dt now sa da seq p => .frame now (dtFrame cfg cfg.replyPrio da sa (dtBytes seq p))
  | .send now src dst prio pgn payload =>
    .command { CmdWord.zero 0x1 now with src := src, dst := dst, prio := prio, pgn := pgn, payload := payload }
  | .cancel now src dst role =>
    .command { CmdWord.zero 0x2 now with src := src, dst := dst, role := bitOfRole role }
  | .rxFrame now f => .command { CmdWord.zero 0x3 now with frame := f }
  | .poll now => .command (CmdWord.zero 0x4 now)

/-! ### The host's words (log 12) -/

/-- Is this the control byte of a CM row (30_encoding.md R90)? -/
def isCmControl (b : Byte) : Bool :=
  b == 0x10 || b == 0x11 || b == 0x13 || b == 0x20 || b == 0xFF

/-- The input word that the bits w of an opcode-table row stand for. The table numbers three formats in one space: a CM
row by data byte 0, a host command by the 4 bits of cmd_op, DT by nothing. DESIGN CHOICE (log 12): a CM control byte in
bits 7..0 is a CM frame; else at most one byte whose low 4 bits are 1..4 is a host command with zero operands; else a DT
frame. A frame has ext = 1 and the identifier the table shows for its class, with priority, DA and SA zero. -/
def tableWord (cfg : Config) (nbits w : Nat) : InputWord :=
  let v := w % 2 ^ nbits
  let d := BitVec.ofNat 64 v
  if isCmControl (d.extractLsb' 0 8) then .frame 0 ⟨true, mkId 0 cfg.pgnTpcm 0 0, Data8.ofWord d⟩
  else if nbits ≤ 8 ∧ 1 ≤ v % 16 ∧ v % 16 ≤ 4 then .command (CmdWord.zero (BitVec.ofNat 4 v) 0)
  else .frame 0 ⟨true, mkId 0 cfg.pgnTpdt 0 0, Data8.ofWord d⟩

/-- The instruction the decoder reads from the bits w of an opcode-table row, under the default configuration. -/
def decodeTableWord (nbits w : Nat) : Option Instr :=
  match decode Config.default (tableWord Config.default nbits w) with
  | .ok i => some i
  | .error _ => none

end Sys2Proof
end

