-- ==== Sys2Proof/Machine/State.lean ====
section
/-! DEFINITION. The state of the block (10_state.md; 70_reset_and_hazards.md R300), its output items (30_encoding.md R94,
R95), the reasons the model stops, and the state after reset. -/

namespace Sys2Proof.Machine

/-- The mode of a session (10_state.md R22, R24). -/
inductive Mode where
  | connection
  | broadcast
  deriving DecidableEq, Repr

/-- The `state` field of a session: the eight states the document names (10_state.md R23). -/
inductive SessState where
  | idle
  | rtsSent
  | sendingData
  | awaitingEom
  | ctsSent
  | receivingData
  | done
  | aborted
  deriving DecidableEq, Repr

/-- A slot buffer: the written bytes as (offset, byte) pairs, offsets strictly rising. An unlisted offset is unwritten
and has no value (20_memory.md R60, R61). -/
abbrev Memory := List Host.Cell

/-- The fields of a valid slot (10_state.md R22). -/
structure Session where
  role : Role
  mode : Mode
  state : SessState
  src : Addr
  dst : Addr
  prio : BitVec 3
  pgn : Pgn
  totalLen : Nat
  numPackets : Nat
  nextSeq : Nat
  windowEnd : Nat
  /-- dl_armed and deadline: `some t` is armed at t; `none` is dl_armed = 0, when deadline is unwritten
  (10_state.md R27; log 4). -/
  deadline : Option Millis
  /-- next_tx: `none` is unwritten (43_session_table.md R233). -/
  nextTx : Option Millis
  created : Millis
  buf : Memory
  deriving DecidableEq, Repr

/-- The status a command returns (10_state.md R34). -/
inductive Status where
  | ok
  | busy
  | resources
  | badLength
  | badAddress
  | ioError
  | noSession
  | notTp
  | malformedCm
  | badFields
  | ignored
  | badCommand
  | sequenceError
  deriving DecidableEq, Repr

/-- The cause an END item reports (60_exceptions.md R271). -/
inductive Cause where
  | none
  | ioError
  | timeout
  | overallTimeout
  | peerAbort
  | sequence
  | malformedCm
  | cancelled
  deriving DecidableEq, Repr

/-- The result of a session's own Abort frame (30_encoding.md R95). -/
inductive AbortTx where
  | none
  | ok
  | failed
  deriving DecidableEq, Repr

/-- The END item of a session's end (30_encoding.md R95). outcome is the terminal state, DONE or ABORTED. -/
structure EndItem where
  slot : Nat
  src : Addr
  dst : Addr
  role : Role
  mode : Mode
  pgn : Pgn
  totalLen : Nat
  outcome : SessState
  cause : Cause
  reason : Option Byte
  abortTx : AbortTx
  data : Option (List Byte)
  deriving DecidableEq, Repr

/-- One item of a command's output trace (30_encoding.md R95). -/
inductive TraceItem where
  | tx (f : Frame) (r : TxResult)
  | ended (e : EndItem)
  deriving DecidableEq, Repr

/-- The state of the block, with the environment's inputs beside it. -/
structure State where
  /-- slot[0..N_SESSIONS-1]; `none` is valid = 0, when every other field of the slot is unwritten (10_state.md R21,
  R22; log 3). -/
  slots : List (Option Session)
  /-- NOW (10_state.md R26). -/
  clock : Millis
  /-- CFG (10_state.md R32). -/
  cfg : Config
  /-- The trace of the last command, in order (30_encoding.md R94; log 8). -/
  trace : List TraceItem
  /-- The status the last command returned (30_encoding.md R94; log 8). -/
  status : Option Status
  /-- The slot the last command returned (30_encoding.md R94; log 8). -/
  slotOut : Option Nat
  /-- The model's own field: what the environment has still to do to the block, next first (log 1). -/
  inputs : List Event
  /-- The model's own field: what the adapter has still to answer, next first (log 2). -/
  answers : List TxResult
  /-- The model's own field: how many free answers have been drawn (log 2). -/
  draws : Nat
  deriving DecidableEq, Repr

/-- What stops the model with a fault. -/
inductive Fault where
  /-- Raised by memWrite: a buffer write with off + len > total_len, an address outside the buffer's live range
  (20_memory.md R61). Safe: no state reachable from reset raises it. -/
  | bufferRange
  deriving DecidableEq, Repr

/-- What the model gives no meaning to. -/
inductive Refusal where
  /-- Raised by an arm of exec whose instruction has no meaning yet. Safe. -/
  | notModelled (mnemonic : String)
  /-- Raised by a read of an unwritten buffer byte or an unwritten next_tx: the spec asks a model to refuse it
  (20_memory.md R61; 93_implementation_defined.md U1). Safe: no state reachable from reset raises it. -/
  | unwrittenRead
  /-- Raised by POLL and by a received DT at a slot whose state no rule allows for its role and mode (10_state.md R25;
  42_session_fsm.md R192). Safe: no state reachable from reset raises it. -/
  | noTransition
  /-- Raised by a reset with an illegal configuration, and by step in a state that holds one (00_scope.md R8;
  93_implementation_defined.md U2). Safe. -/
  | illegalConfig
  deriving DecidableEq, Repr

/-- The state after a reset with a configuration (70_reset_and_hazards.md R300). -/
def State.resetWith (cfg : Config) : State where
  slots := List.replicate cfg.nSessions none
  clock := 0
  cfg := cfg
  trace := []
  status := none
  slotOut := none
  inputs := []
  answers := []
  draws := 0

/-- The machine right after reset. DESIGN CHOICE (log 9): the configuration inputs carry the defaults of
00_scope.md R7. -/
def State.reset : State := State.resetWith Config.default

end Sys2Proof.Machine
end

