-- ==== Sys2Proof/Machine/Flags.lean ====
section
/-! DEFINITION. The status port and the spec's numbers for slot fields, states, statuses and causes. The block has no flags beside
the status a command returns (10_state.md R34). -/

namespace Sys2Proof.Machine

/-- The status codes (10_state.md R34). -/
def statusCode : Status → BitVec 8
  | .ok => 0
  | .busy => 1
  | .resources => 2
  | .badLength => 3
  | .badAddress => 4
  | .ioError => 5
  | .noSession => 6
  | .notTp => 7
  | .malformedCm => 8
  | .badFields => 9
  | .ignored => 10
  | .badCommand => 11
  | .sequenceError => 12

/-- The state codes (10_state.md R23). -/
def stateCode : SessState → BitVec 3
  | .idle => 0
  | .rtsSent => 1
  | .sendingData => 2
  | .awaitingEom => 3
  | .ctsSent => 4
  | .receivingData => 5
  | .done => 6
  | .aborted => 7

/-- The valid bit of a slot (10_state.md R22). -/
def validBit (slot : Option Session) : BitVec 1 := if slot.isSome then 1 else 0

/-- The mode bit of a session (10_state.md R22); its role bit is bitOfRole. -/
def modeBit : Mode → BitVec 1
  | .connection => 0
  | .broadcast => 1

/-- The dl_armed bit of a session (10_state.md R22, R27). -/
def dlArmedBit (σ : Session) : BitVec 1 := if σ.deadline.isSome then 1 else 0

/-- The cause codes (60_exceptions.md R271). -/
def causeCode : Cause → Nat
  | .none => 0
  | .ioError => 1
  | .timeout => 2
  | .overallTimeout => 3
  | .peerAbort => 4
  | .sequence => 5
  | .malformedCm => 6
  | .cancelled => 7

/-- The abort_tx codes (30_encoding.md R95). -/
def abortTxCode : AbortTx → Nat
  | .none => 0
  | .ok => 1
  | .failed => 2

/-- `return st`: the command ends with status st (00_scope.md R10); its slot output stays "none". -/
def ret (st : Status) (s : State) : Host.Outcome State Fault Refusal :=
  .next { s with status := some st }

/-- `return (st, slot)`: the end of a SEND that created session i (43_session_table.md R237). -/
def retSlot (st : Status) (i : Nat) (s : State) : Host.Outcome State Fault Refusal :=
  .next { s with status := some st, slotOut := some i }

/-- A reserved cmd_op: (ST_BAD_COMMAND, none, []), NOW and every session as they were (43_session_table.md R235). -/
def refuseCommand (s : State) : Host.Outcome State Fault Refusal :=
  .next { s with trace := [], status := some .badCommand, slotOut := none }

end Sys2Proof.Machine
end

