-- ==== Sys2Proof/Machine/Operands.lean ====
section
/-! DEFINITION. How a command reaches slots and bytes: the buffer primitives, the table operations, the segment geometry
and the addressing of a session's frames (20_memory.md R61; 43_session_table.md R230–R234; 41_dt_codec.md R140, R141;
42_session_fsm.md R161). -/

namespace Sys2Proof.Machine

/-! ### Buffers (20_memory.md R60, R61) -/

/-- Byte a of a buffer, or none where it is unwritten. -/
def Memory.read : Memory → Nat → Option Byte
  | [], _ => none
  | (k, v) :: rest, a => if k = a then some v else Memory.read rest a

/-- Writes byte a of a buffer, keeping the offsets rising. -/
def Memory.write : Memory → Nat → Byte → Memory
  | [], a, v => [(a, v)]
  | (k, w) :: rest, a, v =>
    if a < k then (a, v) :: (k, w) :: rest
    else if a = k then (a, v) :: rest
    else (k, w) :: Memory.write rest a v

/-- The canonical form of a buffer: strictly rising offsets. An unlisted offset has no value, so no listed byte can equal
what an unlisted one reads as. -/
abbrev Memory.wf (m : Memory) : Prop := List.Pairwise (fun x y : Host.Cell => x.1 < y.1) m

/-- The n bytes from off on, or none if one of them is unwritten. -/
def Memory.readBytes (m : Memory) (off : Nat) : Nat → Option (List Byte)
  | 0 => some []
  | n + 1 =>
    match Memory.read m off, Memory.readBytes m (off + 1) n with
    | some b, some bs => some (b :: bs)
    | _, _ => none

/-- buf[off + k] <- bytes[k] for every k. -/
def Memory.writeBytes (m : Memory) (off : Nat) : List Byte → Memory
  | [] => m
  | b :: bs => Memory.write (Memory.writeBytes m (off + 1) bs) off b

/-- MemRead (20_memory.md R61): none where a byte is unwritten, which a model must refuse (log 14). -/
def memRead (σ : Session) (off n : Nat) : Option (List Byte) := Memory.readBytes σ.buf off n

/-- MemWrite (20_memory.md R61): none where off + len(bytes) ≤ total_len does not hold. -/
def memWrite (σ : Session) (off : Nat) (bytes : List Byte) : Option Session :=
  if off + bytes.length ≤ σ.totalLen then some { σ with buf := Memory.writeBytes σ.buf off bytes } else none

/-! ### The session table (43_session_table.md R230–R234) -/

/-- Slot i: none where valid = 0. -/
def slotAt (s : State) (i : Nat) : Option Session := s.slots.getD i none

/-- slot[i] <- v. -/
def setSlot (i : Nat) (v : Option Session) (s : State) : State := { s with slots := s.slots.set i v }

/-- free(i) (43_session_table.md R234): valid <- 0 and every other field, the buffer too, is unwritten. -/
def free (i : Nat) (s : State) : State := setSlot i none s

/-- Does a slot hold a valid session with this key (43_session_table.md R230)? -/
def hasKey (src dst : Addr) (role : Role) : Option Session → Bool
  | some σ => σ.src == src && σ.dst == dst && σ.role == role
  | none => false

/-- lookup(src, dst, role): the lowest such slot where, outside the invariant, there are several
(43_session_table.md R231; log 15). -/
def lookup (src dst : Addr) (role : Role) (s : State) : Option Nat := s.slots.findIdx? (hasKey src dst role)

/-- Does a slot own a CM frame from sa to da about pgn (43_session_table.md R232)? -/
def ownsCm (sa da : Addr) (pgn : Pgn) : Option Session → Bool
  | some σ =>
    (match σ.role with
      | .sender => σ.src == da && σ.dst == sa
      | .receiver => σ.src == sa && σ.dst == da) && σ.pgn == pgn
  | none => false

/-- The slot indices in ascending order (00_scope.md R11; log 15). -/
def slotIndices (s : State) : List Nat := List.range s.slots.length

/-- owners(SA, DA, pgn), ascending (43_session_table.md R232). -/
def owners (sa da : Addr) (pgn : Pgn) (s : State) : List Nat :=
  (slotIndices s).filter (fun i => ownsCm sa da pgn (slotAt s i))

/-- alloc(): the lowest free slot (43_session_table.md R233). -/
def alloc (s : State) : Option Nat := s.slots.findIdx? Option.isNone

/-- num_packets(L) = ceil(L / 7) (41_dt_codec.md R140). -/
def numPacketsOf (len : Nat) : Nat := (len + 6) / segBytes

/-- The fields allocation writes (43_session_table.md R233). -/
def newSession (role : Role) (mode : Mode) (src dst : Addr) (prio : BitVec 3) (pgn : Pgn) (len np : Nat)
    (clock : Millis) : Session where
  role := role
  mode := mode
  state := .idle
  src := src
  dst := dst
  prio := prio
  pgn := pgn
  totalLen := len
  numPackets := np
  nextSeq := 1
  windowEnd := np
  deadline := none
  nextTx := none
  created := clock
  buf := []

/-! ### Segment geometry (41_dt_codec.md R141) -/

/-- off(i) = 7·(i−1). -/
def segOff (i : Nat) : Nat := segBytes * (i - 1)

/-- n(i) = min(7, L − off(i)). -/
def segLen (len i : Nat) : Nat := min segBytes (len - segOff i)

/-! ### The addressing of a session's frames (42_session_fsm.md R161) -/

/-- The local address of a session, the sa of its frames. -/
def localAddr (σ : Session) : Addr :=
  match σ.role with
  | .sender => σ.src
  | .receiver => σ.dst

/-- The peer address of a session, the da of its frames. -/
def peerAddr (σ : Session) : Addr :=
  match σ.role with
  | .sender => σ.dst
  | .receiver => σ.src

/-- The priority of a session's frames. -/
def framePrio (cfg : Config) (σ : Session) : BitVec 3 :=
  match σ.role with
  | .sender => σ.prio
  | .receiver => cfg.replyPrio

/-- CMF(s, data). -/
def cmf (cfg : Config) (σ : Session) (d : Data8) : Frame :=
  cmFrame cfg (framePrio cfg σ) (peerAddr σ) (localAddr σ) d

/-- DTF(s, data). -/
def dtf (cfg : Config) (σ : Session) (d : Data8) : Frame :=
  dtFrame cfg (framePrio cfg σ) (peerAddr σ) (localAddr σ) d

end Sys2Proof.Machine
end

