-- ==== Sys2Proof/Machine/Ops.lean ====
section
/-! DEFINITION. The shared operations: transmission, the abort of a session (the block's exception), its successful end,
timers, the sweep and the envelope of a command, and reset (42_session_fsm.md R162–R166; 43_session_table.md R235, R236;
70_reset_and_hazards.md R300, R301). -/

namespace Sys2Proof.Machine

/-- Appends an item to the command's output trace (00_scope.md R10). -/
def emit (item : TraceItem) (s : State) : State := { s with trace := s.trace ++ [item] }

/-- tx(frame): one call of the adapter (42_session_fsm.md R162). Its answer is the next one the environment wrote out, or
the next free value when none is left (log 2). -/
def tx (f : Frame) (s : State) : TxResult × State :=
  match s.answers with
  | r :: rest => (r, emit (.tx f r) { s with answers := rest })
  | [] =>
    (Config.freeTxResult s.draws, emit (.tx f (Config.freeTxResult s.draws)) { s with draws := s.draws + 1 })

/-! ### Abort: taking the block's exception (42_session_fsm.md R165; 60_exceptions.md R276) -/

/-- What an abort is raised for, with the received reason byte for a peer's Abort (60_exceptions.md R271). -/
inductive AbortEvent where
  | ioError
  | timeout
  | overallTimeout
  | peerAbort (reason : Byte)
  | sequence
  | malformedCm
  | cancelled
  deriving DecidableEq, Repr

/-- The cause an abort reports (60_exceptions.md R271). -/
def causeOf : AbortEvent → Cause
  | .ioError => .ioError
  | .timeout => .timeout
  | .overallTimeout => .overallTimeout
  | .peerAbort _ => .peerAbort
  | .sequence => .sequence
  | .malformedCm => .malformedCm
  | .cancelled => .cancelled

/-- The reason of the Abort frame that a connection-mode session sends, or none where the cause sends none
(42_session_fsm.md R165). -/
def reasonSent (cfg : Config) : AbortEvent → Option Byte
  | .ioError => none
  | .timeout => some cfg.rsnTimeout
  | .overallTimeout => some cfg.rsnTimeout
  | .peerAbort _ => none
  | .sequence => some cfg.rsnSequenceError
  | .malformedCm => some cfg.rsnUnexpectedData
  | .cancelled => some cfg.rsnCancel

/-- The reason a peer's Abort carried, or none (42_session_fsm.md R165). -/
def reasonReceived : AbortEvent → Option Byte
  | .peerAbort reason => some reason
  | _ => none

/-- The END item of session σ in slot i, from its fields (30_encoding.md R95; 60_exceptions.md R272). -/
def endItem (i : Nat) (σ : Session) (cause : Cause) (reason : Option Byte) (at' : AbortTx)
    (data : Option (List Byte)) : EndItem where
  slot := i
  src := σ.src
  dst := σ.dst
  role := σ.role
  mode := σ.mode
  pgn := σ.pgn
  totalLen := σ.totalLen
  outcome := σ.state
  cause := cause
  reason := reason
  abortTx := at'
  data := data

/-- Is an Abort frame sent, and with which reason? Only in connection mode (42_session_fsm.md R165). -/
def abortFrameReason (cfg : Config) (σ : Session) (ev : AbortEvent) : Option Byte :=
  match σ.mode with
  | .connection => reasonSent cfg ev
  | .broadcast => none

/-- The abort_tx value of an answer (42_session_fsm.md R165). -/
def abortTxOf : TxResult → AbortTx
  | .ok => .ok
  | .partialWrite => .failed
  | .ioErr => .failed

/-- abort(i, cause, reason) of session σ in slot i (42_session_fsm.md R165): at most one Abort frame, one END item, the
slot freed. A failed Abort frame only sets abort_tx. There is no return from it (60_exceptions.md R277). -/
def abort (i : Nat) (σ : Session) (ev : AbortEvent) (s : State) : State :=
  let τ := { σ with state := .aborted, deadline := none }
  match abortFrameReason s.cfg τ ev with
  | some r =>
    let (res, s1) := tx (cmf s.cfg τ (encAbort r τ.pgn)) s
    free i (emit (.ended (endItem i τ (causeOf ev) (some r) (abortTxOf res) none)) s1)
  | none => free i (emit (.ended (endItem i τ (causeOf ev) (reasonReceived ev) .none none)) s)

/-- stx(i, frame) of session σ in slot i (42_session_fsm.md R163): any answer but OK aborts the session with IO_ERROR.
The Bool says whether the frame was sent. -/
def stx (i : Nat) (σ : Session) (f : Frame) (s : State) : Bool × State :=
  let (r, s1) := tx f s
  match r with
  | .ok => (true, s1)
  | .partialWrite => (false, abort i σ .ioError s1)
  | .ioErr => (false, abort i σ .ioError s1)

/-- finish(i) of session σ in slot i, then the return of status st (42_session_fsm.md R164): a receiver's END carries the
reassembled bytes. The read of an unwritten byte is refused (20_memory.md R61). -/
def finish (i : Nat) (σ : Session) (s : State) : Host.Outcome State Fault Refusal :=
  let τ := { σ with state := .done, deadline := none }
  match τ.role with
  | .sender => .next (free i (emit (.ended (endItem i τ .none none .none none)) s))
  | .receiver =>
    match memRead τ 0 τ.totalLen with
    | some d => .next (free i (emit (.ended (endItem i τ .none none .none (some d))) s))
    | none => .refused .unwrittenRead

/-! ### Timers (42_session_fsm.md R166; 10_state.md R27) -/

/-- arm(σ, T) at the time clock. -/
def arm (clock : Millis) (t : Millis) (σ : Session) : Session := { σ with deadline := some (clock + t) }

/-- disarm(σ): the deadline becomes unwritten. -/
def disarm (σ : Session) : Session := { σ with deadline := none }

/-- Has an armed deadline expired (10_state.md R27)? -/
def expired (clock : Millis) (σ : Session) : Bool :=
  match σ.deadline with
  | some d => decide (d ≤ clock)
  | none => false

/-- Has the overall limit passed (43_session_table.md R236; log 15)? -/
def overallPassed (cfg : Config) (clock : Millis) (σ : Session) : Bool :=
  decide (cfg.tOverall ≠ 0 ∧ cfg.tOverall ≤ clock - σ.created)

/-! ### The sweep and the envelope (43_session_table.md R235, R236) -/

/-- The sweep's visit of one slot (43_session_table.md R236; 42_session_fsm.md R187, R188). -/
def sweepSlot (s : State) (i : Nat) : State :=
  match slotAt s i with
  | none => s
  | some σ =>
    if expired s.clock σ then abort i σ .timeout s
    else if overallPassed s.cfg s.clock σ then abort i σ .overallTimeout s
    else s

/-- The sweep: every slot once, in ascending order (43_session_table.md R236). -/
def sweep (s : State) : State := (slotIndices s).foldl sweepSlot s

/-- The envelope of a command before its own rule: an empty output, NOW <- max(NOW, now), the sweep
(43_session_table.md R235). -/
def beginCommand (now : Millis) (s : State) : State :=
  sweep { s with clock := max s.clock now, trace := [], status := none, slotOut := none }

/-! ### Configuration and reset (00_scope.md R7, R8; 70_reset_and_hazards.md R300, R301) -/

/-- The legal values of one PGN parameter: low byte 0x00, bits[15:8] < 0xF0 (00_scope.md R7). -/
def legalTpPgn (p : BitVec 18) : Bool := p.extractLsb' 0 8 == 0 && decide (p.extractLsb' 8 8 < 0xF0#8)

/-- The "legal values" column of 00_scope.md R7, as far as the types do not already say it. -/
def legalConfig (cfg : Config) : Bool :=
  decide (1 ≤ cfg.nSessions)
    && decide (lMin ≤ cfg.maxRxLen) && decide (cfg.maxRxLen ≤ lMax)
    && decide (50 ≤ cfg.bamDelay) && decide (cfg.bamDelay ≤ 200)
    && legalTpPgn cfg.pgnTpcm && legalTpPgn cfg.pgnTpdt && cfg.pgnTpcm != cfg.pgnTpdt

/-- A reset with a configuration (70_reset_and_hazards.md R300, R301): every session is discarded without a frame or an
END item. An illegal configuration is refused (00_scope.md R8). The environment's own inputs go on (log 10). -/
def applyReset (cfg : Config) (s : State) : Host.Outcome State Fault Refusal :=
  if legalConfig cfg then
    .next { State.resetWith cfg with inputs := s.inputs, answers := s.answers, draws := s.draws }
  else .refused .illegalConfig

end Sys2Proof.Machine
end

