-- ==== Sys2Proof/Machine/Segment.lean ====
section
/-! DEFINITION. The DT fragmenter and reassembler (41_dt_codec.md R142–R149). Neither changes a session's state or
deadline. -/

namespace Sys2Proof.Machine

/-- FRAG(σ, i) (41_dt_codec.md R142): none where a byte of the segment is unwritten. -/
def frag (σ : Session) (i : Nat) : Option Data8 :=
  match memRead σ (segOff i) (segLen σ.totalLen i) with
  | some bytes => some (dtBytes i bytes)
  | none => none

/-- The result of REASM (41_dt_codec.md R145). -/
inductive ReasmResult where
  | accept
  | complete
  | reject
  deriving DecidableEq, Repr

/-- REASM(σ, seq, p) (41_dt_codec.md R145–R148): the result and the session after it, or none where the buffer write is
outside the live range. A segment that is not the next one changes nothing. -/
def reasm (σ : Session) (seq : Nat) (p : List Byte) : Option (ReasmResult × Session) :=
  if seq = σ.nextSeq then
    match memWrite σ (segOff seq) (p.take (segLen σ.totalLen seq)) with
    | some τ => some (if seq + 1 > τ.numPackets then .complete else .accept, { τ with nextSeq := seq + 1 })
    | none => none
  else some (.reject, σ)

end Sys2Proof.Machine
end

