-- ==== Sys2Proof/Machine/Session.lean ====
section
/-! DEFINITION. The session state machine: one definition per transition rule (42_session_fsm.md R167–R191). Each takes
the slot index i, the session σ it holds and the state of the block. -/

namespace Sys2Proof.Machine

/-! ### Sender, connection mode -/

/-- Reference proceed (42_session_fsm.md R168). -/
def referenceProceed (σ : Session) : Session :=
  { disarm { σ with windowEnd := σ.numPackets } with state := .sendingData }

/-- START of a SENDER/CONNECTION slot (42_session_fsm.md R167). -/
def startSenderConnection (i : Nat) (σ : Session) (s : State) : Host.Outcome State Fault Refusal :=
  match stx i σ (cmf s.cfg σ (encRts σ.totalLen σ.numPackets σ.pgn)) s with
  | (false, s1) => ret .ioError s1
  | (true, s1) =>
    let τ := { σ with state := .rtsSent }
    if s1.cfg.waitCts then retSlot .ok i (setSlot i (some (arm s1.clock s1.cfg.t3 τ)) s1)
    else retSlot .ok i (setSlot i (some (referenceProceed τ)) s1)

/-- CTS hold (42_session_fsm.md R169). -/
def ctsHold (i : Nat) (σ : Session) (s : State) : State := setSlot i (some (arm s.clock s.cfg.t3 σ)) s

/-- CTS grant (42_session_fsm.md R170). -/
def ctsGrant (n : Nat) (i : Nat) (σ : Session) (s : State) : State :=
  setSlot i
    (some { disarm { σ with windowEnd := min (σ.nextSeq + n - 1) σ.numPackets } with state := .sendingData }) s

/-- CTS sequence mismatch (42_session_fsm.md R171). -/
def ctsMismatch (i : Nat) (σ : Session) (s : State) : State := abort i σ .sequence s

/-- A CTS at the slot that awaits it: hold, grant or mismatch as n and next select (42_session_fsm.md R169–R171), with
the status it contributes. -/
def ctsAwaited (n nextSeq : Nat) (i : Nat) (σ : Session) (s : State) : Status × State :=
  if n = 0 then (.ok, ctsHold i σ s)
  else if nextSeq = σ.nextSeq then (.ok, ctsGrant n i σ s)
  else (.sequenceError, ctsMismatch i σ s)

/-- Does σ await a CTS (43_session_table.md R242)? Every other owner ignores it (42_session_fsm.md R186). -/
def awaitsCts (cfg : Config) (σ : Session) : Bool :=
  decide (σ.role = .sender ∧ σ.mode = .connection ∧ σ.state = .rtsSent) && cfg.waitCts

/-- What follows a sent DT in connection mode (42_session_fsm.md R172). -/
def afterDt (cfg : Config) (clock : Millis) (σ : Session) : Session :=
  let τ := { σ with nextSeq := σ.nextSeq + 1 }
  if τ.nextSeq > τ.numPackets then { τ with state := .awaitingEom }
  else if τ.nextSeq > τ.windowEnd then arm clock cfg.t3 { τ with state := .rtsSent }
  else τ

/-- SERVICE of a SENDER/CONNECTION slot in SENDING_DATA (42_session_fsm.md R172). -/
def serviceSending (i : Nat) (σ : Session) (s : State) : Host.Outcome State Fault Refusal :=
  match frag σ σ.nextSeq with
  | none => .refused .unwrittenRead
  | some d =>
    match stx i σ (dtf s.cfg σ d) s with
    | (false, s1) => .next s1
    | (true, s1) => .next (setSlot i (some (afterDt s1.cfg s1.clock σ)) s1)

/-- SERVICE of a SENDER/CONNECTION slot in AWAITING_EOM (42_session_fsm.md R173). -/
def serviceAwaitingEom (i : Nat) (σ : Session) (s : State) : Host.Outcome State Fault Refusal :=
  match stx i σ (cmf s.cfg σ (encEomAck σ.totalLen σ.numPackets σ.pgn)) s with
  | (false, s1) => .next s1
  | (true, s1) => finish i σ s1

/-! ### Sender, broadcast mode -/

/-- START of a SENDER/BROADCAST slot (42_session_fsm.md R175). -/
def startSenderBroadcast (i : Nat) (σ : Session) (s : State) : Host.Outcome State Fault Refusal :=
  match stx i σ (cmf s.cfg σ (encBam σ.totalLen σ.numPackets σ.pgn)) s with
  | (false, s1) => ret .ioError s1
  | (true, s1) =>
    retSlot .ok i
      (setSlot i (some { σ with nextTx := some (s1.clock + s1.cfg.bamDelay), state := .sendingData }) s1)

/-- What follows a sent DT in broadcast mode, before the end test (42_session_fsm.md R176). -/
def afterBamDt (cfg : Config) (clock : Millis) (σ : Session) : Session :=
  { σ with nextSeq := σ.nextSeq + 1, nextTx := some (clock + cfg.bamDelay) }

/-- The DT of a SENDER/BROADCAST slot whose pacing time has come (42_session_fsm.md R176). -/
def sendBamDt (i : Nat) (σ : Session) (s : State) : Host.Outcome State Fault Refusal :=
  match frag σ σ.nextSeq with
  | none => .refused .unwrittenRead
  | some d =>
    match stx i σ (dtf s.cfg σ d) s with
    | (false, s1) => .next s1
    | (true, s1) =>
      let τ := afterBamDt s1.cfg s1.clock σ
      if τ.nextSeq > τ.numPackets then finish i τ s1 else .next (setSlot i (some τ) s1)

/-- SERVICE of a SENDER/BROADCAST slot in SENDING_DATA: nothing before next_tx (42_session_fsm.md R176). -/
def serviceBroadcast (i : Nat) (σ : Session) (s : State) : Host.Outcome State Fault Refusal :=
  match σ.nextTx with
  | none => .refused .unwrittenRead
  | some t => if s.clock < t then .next s else sendBamDt i σ s

/-! ### SERVICE (42_session_fsm.md R172–R174, R176, R191; 43_session_table.md R247) -/

/-- SERVICE of a valid SENDER slot, as its mode and state select. A state no rule allows for its mode is refused
(log 7). -/
def serviceSender (i : Nat) (σ : Session) (s : State) : Host.Outcome State Fault Refusal :=
  match σ.mode, σ.state with
  | .connection, .sendingData => serviceSending i σ s
  | .connection, .awaitingEom => serviceAwaitingEom i σ s
  | .connection, .rtsSent => .next s
  | .broadcast, .sendingData => serviceBroadcast i σ s
  | _, _ => .refused .noTransition

/-- POLL's visit of one slot: a RECEIVER does nothing (42_session_fsm.md R191). -/
def serviceSlot (i : Nat) (s : State) : Host.Outcome State Fault Refusal :=
  match slotAt s i with
  | none => .next s
  | some σ =>
    match σ.role with
    | .sender => serviceSender i σ s
    | .receiver => .next s

/-! ### Receiver -/

/-- START of a RECEIVER/CONNECTION slot (42_session_fsm.md R177). -/
def startReceiverConnection (i : Nat) (σ : Session) (s : State) : Host.Outcome State Fault Refusal :=
  match stx i σ (cmf s.cfg σ (encCts σ.numPackets 1 σ.pgn)) s with
  | (false, s1) => ret .ioError s1
  | (true, s1) => ret .ok (setSlot i (some (arm s1.clock s1.cfg.t2 { σ with state := .ctsSent })) s1)

/-- START of a RECEIVER/BROADCAST slot (42_session_fsm.md R178). -/
def startReceiverBroadcast (i : Nat) (σ : Session) (s : State) : Host.Outcome State Fault Refusal :=
  ret .ok (setSlot i (some (arm s.clock s.cfg.t1 { σ with state := .receivingData })) s)

/-- DT accept; σ is the session after REASM (42_session_fsm.md R179). -/
def dtAccept (i : Nat) (σ : Session) (s : State) : Host.Outcome State Fault Refusal :=
  ret .ok (setSlot i (some (arm s.clock s.cfg.t1 { σ with state := .receivingData })) s)

/-- The end of a receiver with the status ST_OK (42_session_fsm.md R180, R181). -/
def finishOk (i : Nat) (σ : Session) (s : State) : Host.Outcome State Fault Refusal :=
  match finish i σ s with
  | .next s1 => ret .ok s1
  | .fault f => .fault f
  | .refused r => .refused r

/-- DT complete, connection mode; σ is the session after REASM (42_session_fsm.md R180). -/
def dtCompleteConnection (i : Nat) (σ : Session) (s : State) : Host.Outcome State Fault Refusal :=
  let τ := disarm { σ with state := .receivingData }
  match stx i τ (cmf s.cfg τ (encEomAck τ.totalLen τ.numPackets τ.pgn)) s with
  | (false, s1) => ret .ioError s1
  | (true, s1) => finishOk i τ s1

/-- DT complete, broadcast mode; σ is the session after REASM (42_session_fsm.md R181). -/
def dtCompleteBroadcast (i : Nat) (σ : Session) (s : State) : Host.Outcome State Fault Refusal := finishOk i σ s

/-- DT reject (42_session_fsm.md R182). -/
def dtReject (i : Nat) (σ : Session) (s : State) : Host.Outcome State Fault Refusal :=
  ret .sequenceError (abort i σ .sequence s)

/-- Does σ take DT segments: a receiver in CTS_SENT or RECEIVING_DATA (41_dt_codec.md R145)? -/
def takesDt (σ : Session) : Bool :=
  decide (σ.role = .receiver ∧ (σ.state = .ctsSent ∨ σ.state = .receivingData))

/-- A DT at the receiver slot of its pair (43_session_table.md R246). A state no rule allows is refused (log 7). -/
def dtAtSlot (seq : Nat) (p : List Byte) (i : Nat) (σ : Session) (s : State) : Host.Outcome State Fault Refusal :=
  if takesDt σ then
    match reasm σ seq p with
    | none => .fault .bufferRange
    | some (.reject, _) => dtReject i σ s
    | some (.accept, τ) => dtAccept i τ s
    | some (.complete, τ) =>
      match τ.mode with
      | .connection => dtCompleteConnection i τ s
      | .broadcast => dtCompleteBroadcast i τ s
  else .refused .noTransition

/-! ### Events common to all roles, at one slot -/

/-- A peer's Abort at slot i (42_session_fsm.md R183). -/
def peerAbortAt (reason : Byte) (s : State) (i : Nat) : State :=
  match slotAt s i with
  | some σ => abort i σ (.peerAbort reason) s
  | none => s

/-- A malformed CM frame at slot i (42_session_fsm.md R184). -/
def malformedAt (s : State) (i : Nat) : State :=
  match slotAt s i with
  | some σ => abort i σ .malformedCm s
  | none => s

/-- A received EOM_ACK at slot i changes nothing (42_session_fsm.md R185). -/
def eomAckAt (s : State) (_ : Nat) : State := s

/-- A CTS at slot i, with the status so far (43_session_table.md R242). -/
def ctsAt (n nextSeq : Nat) (acc : Status × State) (i : Nat) : Status × State :=
  match slotAt acc.2 i with
  | some σ => if awaitsCts acc.2.cfg σ then ctsAwaited n nextSeq i σ acc.2 else acc
  | none => acc

/-- An external cancellation of session σ in slot i (42_session_fsm.md R189). -/
def cancelAt (i : Nat) (σ : Session) (s : State) : Host.Outcome State Fault Refusal :=
  ret .ok (abort i σ .cancelled s)

end Sys2Proof.Machine
end

