-- ==== Sys2Proof/Machine/Receive.lean ====
section
/-! DEFINITION. Received frames: the rule of each CM kind and of DT, the meanings of the frame rows of the opcode table,
and RX_FRAME (43_session_table.md R239–R246, R248). -/

namespace Sys2Proof.Machine

/-- rej(SA, DA, reason, pgn): the rejection frame of an RTS, whose answer has no effect (43_session_table.md R248). -/
def rej (sa da : Addr) (reason : Byte) (pgn : Pgn) (s : State) : State :=
  (tx (cmFrame s.cfg s.cfg.replyPrio sa da (encAbort reason pgn)) s).2

/-- Are the fields of an RTS or BAM ones of a transfer: 9 ≤ len ≤ 1785 and np = ceil(len/7)
(43_session_table.md R240, R241)? -/
def validLength (len np : Nat) : Bool := decide (lMin ≤ len ∧ len ≤ lMax ∧ np = numPacketsOf len)

/-- RX of an RTS (43_session_table.md R240; log 16). -/
def rxRts (sa da : Addr) (len np : Nat) (pgn : Pgn) (s : State) : Host.Outcome State Fault Refusal :=
  if da = addrGlobal ∨ validLength len np = false then ret .badFields s
  else if (lookup sa da .receiver s).isSome then ret .busy (rej sa da s.cfg.rsnBusy pgn s)
  else if len > s.cfg.maxRxLen then ret .resources (rej sa da s.cfg.rsnResources pgn s)
  else
    match alloc s with
    | none => ret .resources (rej sa da s.cfg.rsnResources pgn s)
    | some i =>
      let σ := newSession .receiver .connection sa da s.cfg.replyPrio pgn len np s.clock
      startReceiverConnection i σ (setSlot i (some σ) s)

/-- RX of a BAM: every rejection is silent (43_session_table.md R241). -/
def rxBam (sa da : Addr) (len np : Nat) (pgn : Pgn) (s : State) : Host.Outcome State Fault Refusal :=
  if da ≠ addrGlobal ∨ validLength len np = false then ret .badFields s
  else if (lookup sa addrGlobal .receiver s).isSome then ret .busy s
  else if len > s.cfg.maxRxLen then ret .resources s
  else
    match alloc s with
    | none => ret .resources s
    | some i =>
      let σ := newSession .receiver .broadcast sa addrGlobal s.cfg.replyPrio pgn len np s.clock
      startReceiverBroadcast i σ (setSlot i (some σ) s)

/-- RX of a CTS (43_session_table.md R242). -/
def rxCts (sa da : Addr) (n nextSeq : Nat) (pgn : Pgn) (s : State) : Host.Outcome State Fault Refusal :=
  match owners sa da pgn s with
  | [] => ret .noSession s
  | o :: os =>
    let acc := (o :: os).foldl (ctsAt n nextSeq) (.ignored, s)
    ret acc.1 acc.2

/-- RX of an EOM_ACK (43_session_table.md R243). -/
def rxEomAck (sa da : Addr) (pgn : Pgn) (s : State) : Host.Outcome State Fault Refusal :=
  match owners sa da pgn s with
  | [] => ret .noSession s
  | o :: os => ret .ignored ((o :: os).foldl eomAckAt s)

/-- RX of an Abort (43_session_table.md R244). -/
def rxAbort (sa da : Addr) (reason : Byte) (pgn : Pgn) (s : State) : Host.Outcome State Fault Refusal :=
  match owners sa da pgn s with
  | [] => ret .noSession s
  | o :: os => ret .ok ((o :: os).foldl (peerAbortAt reason) s)

/-- RX of a MALFORMED frame (43_session_table.md R245). -/
def rxMalformed (sa da : Addr) (pgn : Pgn) (s : State) : Host.Outcome State Fault Refusal :=
  ret .malformedCm ((owners sa da pgn s).foldl malformedAt s)

/-- RX of a DT (43_session_table.md R246). -/
def rxDt (sa da : Addr) (seq : Nat) (p : List Byte) (s : State) : Host.Outcome State Fault Refusal :=
  match lookup sa da .receiver s with
  | none => ret .noSession s
  | some i =>
    match slotAt s i with
    | some σ => dtAtSlot seq p i σ s
    | none => ret .noSession s

/-- The dispatch of a decoded CM message (43_session_table.md R239). -/
def rxCm (sa da : Addr) (m : CmMsg) (s : State) : Host.Outcome State Fault Refusal :=
  match m with
  | .rts len np pgn => rxRts sa da len np pgn s
  | .cts n nextSeq pgn => rxCts sa da n nextSeq pgn s
  | .eomAck _ _ pgn => rxEomAck sa da pgn s
  | .bam len np pgn => rxBam sa da len np pgn s
  | .abort reason pgn => rxAbort sa da reason pgn s
  | .malformed _ pgn => rxMalformed sa da pgn s

/-- The check of SA that comes before the rule of any TP frame (43_session_table.md R239). -/
def fromSource (sa : Addr) (rule : State → Host.Outcome State Fault Refusal) (s : State) :
    Host.Outcome State Fault Refusal :=
  if sa = addrGlobal then ret .badFields s else rule s

/-- RX_FRAME after the envelope: class, then SA, then the rule of the frame's kind (43_session_table.md R239). -/
def rxClassified (f : Frame) (s : State) : Host.Outcome State Fault Refusal :=
  match classify s.cfg f with
  | .notTp => ret .notTp s
  | .dt =>
    fromSource (sourceAddr f.id)
      (rxDt (sourceAddr f.id) (destAddr f.id) (dtSeq f.data) (dtPayload f.data)) s
  | .cm => fromSource (sourceAddr f.id) (rxCm (sourceAddr f.id) (destAddr f.id) (decCm f.data)) s

/-! ### The meanings of the frame rows (log 5: a frame is delivered by RX_FRAME, so each begins with its envelope) -/

/-- CM.RTS: RX_FRAME of an RTS (43_session_table.md R235, R239, R240). -/
def execCmRts (now : Millis) (sa da : Addr) (len np : Nat) (pgn : Pgn) (s : State) :
    Host.Outcome State Fault Refusal :=
  fromSource sa (rxRts sa da len np pgn) (beginCommand now s)

/-- CM.CTS: RX_FRAME of a CTS (43_session_table.md R235, R239, R242). -/
def execCmCts (now : Millis) (sa da : Addr) (n nextSeq : Nat) (pgn : Pgn) (s : State) :
    Host.Outcome State Fault Refusal :=
  fromSource sa (rxCts sa da n nextSeq pgn) (beginCommand now s)

/-- CM.EOM_ACK: RX_FRAME of an EOM_ACK, whose len and np no rule reads (43_session_table.md R235, R239, R243). -/
def execCmEomAck (now : Millis) (sa da : Addr) (pgn : Pgn) (s : State) : Host.Outcome State Fault Refusal :=
  fromSource sa (rxEomAck sa da pgn) (beginCommand now s)

/-- CM.BAM: RX_FRAME of a BAM (43_session_table.md R235, R239, R241). -/
def execCmBam (now : Millis) (sa da : Addr) (len np : Nat) (pgn : Pgn) (s : State) :
    Host.Outcome State Fault Refusal :=
  fromSource sa (rxBam sa da len np pgn) (beginCommand now s)

/-- CM.ABORT: RX_FRAME of an Abort (43_session_table.md R235, R239, R244). -/
def execCmAbort (now : Millis) (sa da : Addr) (reason : Byte) (pgn : Pgn) (s : State) :
    Host.Outcome State Fault Refusal :=
  fromSource sa (rxAbort sa da reason pgn) (beginCommand now s)

/-- DT: RX_FRAME of a DT (43_session_table.md R235, R239, R246). -/
def execDt (now : Millis) (sa da : Addr) (seq : Nat) (p : List Byte) (s : State) :
    Host.Outcome State Fault Refusal :=
  fromSource sa (rxDt sa da seq p) (beginCommand now s)

/-- RX_FRAME (43_session_table.md R235, R239). -/
def execRxFrame (now : Millis) (f : Frame) (s : State) : Host.Outcome State Fault Refusal :=
  rxClassified f (beginCommand now s)

/-- What an input word does that is no row of the opcode table (30_encoding.md R91 (a), (d), (e)): a frame is still an
RX_FRAME; a record with a reserved cmd_op is refused with ST_BAD_COMMAND (43_session_table.md R235). -/
def rejectWord (w : InputWord) (s : State) : Host.Outcome State Fault Refusal :=
  match w with
  | .command _ => refuseCommand s
  | .frame now f => execRxFrame now f s

end Sys2Proof.Machine
end

