-- ==== Sys2Proof/Machine/HostCommands.lean ====
section
/-! DEFINITION. The meanings of the host commands SEND, CANCEL and POLL (43_session_table.md R237, R238, R247). -/

namespace Sys2Proof.Machine

/-- The mode of a new sender (43_session_table.md R237; 10_state.md R24). -/
def senderMode (dst : Addr) : Mode := if dst = addrGlobal then .broadcast else .connection

/-- The START of a sender slot, as its mode selects (43_session_table.md R237). -/
def startSender (i : Nat) (σ : Session) (s : State) : Host.Outcome State Fault Refusal :=
  match σ.mode with
  | .connection => startSenderConnection i σ s
  | .broadcast => startSenderBroadcast i σ s

/-- SEND after the envelope (43_session_table.md R237). -/
def sendRule (src dst : Addr) (prio : BitVec 3) (pgn : Pgn) (payload : List Byte) (s : State) :
    Host.Outcome State Fault Refusal :=
  if payload.length < lMin ∨ lMax < payload.length then ret .badLength s
  else if src = addrGlobal then ret .badAddress s
  else if (lookup src dst .sender s).isSome then ret .busy s
  else
    match alloc s with
    | none => ret .resources s
    | some i =>
      let σ :=
        newSession .sender (senderMode dst) src dst prio pgn payload.length (numPacketsOf payload.length) s.clock
      match memWrite σ 0 payload with
      | none => .fault .bufferRange
      | some τ => startSender i τ (setSlot i (some τ) s)

/-- SEND (43_session_table.md R235, R237). -/
def execSend (now : Millis) (src dst : Addr) (prio : BitVec 3) (pgn : Pgn) (payload : List Byte) (s : State) :
    Host.Outcome State Fault Refusal :=
  sendRule src dst prio pgn payload (beginCommand now s)

/-- CANCEL after the envelope (43_session_table.md R238). -/
def cancelRule (src dst : Addr) (role : Role) (s : State) : Host.Outcome State Fault Refusal :=
  match lookup src dst role s with
  | none => ret .noSession s
  | some i =>
    match slotAt s i with
    | some σ => cancelAt i σ s
    | none => ret .noSession s

/-- CANCEL (43_session_table.md R235, R238). -/
def execCancel (now : Millis) (src dst : Addr) (role : Role) (s : State) : Host.Outcome State Fault Refusal :=
  cancelRule src dst role (beginCommand now s)

/-- POLL's visits of a list of slots in order, then ST_OK (43_session_table.md R247). -/
def pollSlots : List Nat → State → Host.Outcome State Fault Refusal
  | [], s => ret .ok s
  | i :: is, s =>
    match serviceSlot i s with
    | .next s1 => pollSlots is s1
    | .fault f => .fault f
    | .refused r => .refused r

/-- POLL after the envelope (43_session_table.md R247). -/
def pollRule (s : State) : Host.Outcome State Fault Refusal := pollSlots (slotIndices s) s

/-- POLL (43_session_table.md R235, R247). -/
def execPoll (now : Millis) (s : State) : Host.Outcome State Fault Refusal := pollRule (beginCommand now s)

end Sys2Proof.Machine
end

