-- ==== Sys2Proof/Machine/Dispatch.lean ====
section
/-! DEFINITION. The dispatch of an instruction to its meaning: one arm per row of spec/opcode_table.json. -/

namespace Sys2Proof.Machine

def exec (i : Instr) (s : State) : Host.Outcome State Fault Refusal :=
  match i with
  -- received TP.CM frames (format CM)
  | .cmRts now sa da len np pgn => Sys2Proof.Machine.execCmRts now sa da len np pgn s
  | .cmCts now sa da n nextSeq pgn => Sys2Proof.Machine.execCmCts now sa da n nextSeq pgn s
  | .cmEomAck now sa da _ _ pgn => Sys2Proof.Machine.execCmEomAck now sa da pgn s
  | .cmBam now sa da len np pgn => Sys2Proof.Machine.execCmBam now sa da len np pgn s
  | .cmAbort now sa da reason pgn => Sys2Proof.Machine.execCmAbort now sa da reason pgn s
  -- received TP.DT frames (format DT)
  | .dt now sa da seq p => Sys2Proof.Machine.execDt now sa da seq p s
  -- host commands (format HOST)
  | .send now src dst prio pgn payload => Sys2Proof.Machine.execSend now src dst prio pgn payload s
  | .cancel now src dst role => Sys2Proof.Machine.execCancel now src dst role s
  | .rxFrame now f => Sys2Proof.Machine.execRxFrame now f s
  | .poll now => Sys2Proof.Machine.execPoll now s

end Sys2Proof.Machine
end

