-- ==== Sys2Proof/Machine/Step.lean ====
section
/-! DEFINITION. One step of the machine: the next event of the environment is taken and its effect happens whole
(10_state.md R20; 20_memory.md R68). -/

namespace Sys2Proof.Machine

/-- The effect of an input word: its instruction's meaning, or what a refused form does (30_encoding.md R90, R91, R99). -/
def runWord (w : InputWord) (s : State) : Host.Outcome State Fault Refusal :=
  match decode s.cfg w with
  | .ok i => exec i s
  | .error _ => rejectWord w s

/-- One step. With no event left the block does nothing and its state persists (60_exceptions.md R284). A state that
holds an illegal configuration has no meaning (00_scope.md R8). -/
def step (s : State) : Host.Outcome State Fault Refusal :=
  match s.inputs with
  | [] => .next s
  | .reset cfg :: rest => applyReset cfg { s with inputs := rest }
  | .word w :: rest =>
    if legalConfig s.cfg then runWord w { s with inputs := rest } else .refused .illegalConfig

/-- The state whose very next event is the input word that the bits w of an opcode-table row stand for (log 12). -/
def State.withFetchWord (s : State) (nbits w : Nat) : State :=
  { s with inputs := .word (tableWord s.cfg nbits w) :: s.inputs }

end Sys2Proof.Machine
end

