-- ==== Sys2Proof/Safety.lean ====
section
/-! DEFINITION. What holds of the block between commands (10_state.md R37), what a safe step is, and the notions the
statements are written in. -/

namespace Sys2Proof.Machine

/-- The valid sessions, in slot order. -/
def validSessions (s : State) : List Session := s.slots.filterMap id

/-- The key of a valid slot (43_session_table.md R230). -/
abbrev sessionKey (σ : Session) : Addr × Addr × Role := (σ.src, σ.dst, σ.role)

/-- The states a valid slot can hold between commands, by role and mode (10_state.md R25, R37 (a)). -/
def allowedState : Role → Mode → SessState → Bool
  | .sender, .connection, .rtsSent => true
  | .sender, .connection, .sendingData => true
  | .sender, .connection, .awaitingEom => true
  | .sender, .broadcast, .sendingData => true
  | .receiver, .connection, .ctsSent => true
  | .receiver, .connection, .receivingData => true
  | .receiver, .broadcast, .receivingData => true
  | _, _, _ => false

/-- The states in which the deadline is armed (10_state.md R27, R37 (f)). -/
def timedState : SessState → Bool
  | .rtsSent => true
  | .ctsSent => true
  | .receivingData => true
  | _ => false

/-- R37 (c): the length is legal and num_packets is its number of segments. -/
abbrev lengthOk (cfg : Config) (σ : Session) : Prop :=
  lMin ≤ σ.totalLen ∧ σ.totalLen ≤ lMax ∧ σ.numPackets = numPacketsOf σ.totalLen ∧
    (σ.role = .receiver → σ.totalLen ≤ cfg.maxRxLen)

/-- R37 (d), with the legal ranges of R22; RTS_SENT is held only while a sender waits for a CTS (R168), and a sender
that never waits for one keeps window_end at num_packets (R30). -/
abbrev progressOk (cfg : Config) (σ : Session) : Prop :=
  1 ≤ σ.nextSeq ∧ 1 ≤ σ.windowEnd ∧ σ.windowEnd ≤ σ.numPackets ∧
    (σ.state = .sendingData → σ.nextSeq ≤ σ.windowEnd) ∧
    (σ.state = .awaitingEom → σ.nextSeq = σ.numPackets + 1) ∧
    (σ.state ≠ .awaitingEom → σ.nextSeq ≤ σ.numPackets) ∧
    (σ.state = .rtsSent → cfg.waitCts = true) ∧
    (σ.mode = .broadcast ∨ cfg.waitCts = false → σ.windowEnd = σ.numPackets)

/-- How many bytes of the buffer are written: all of a sender's, the accepted segments of a receiver (R37 (e)). -/
def writtenBytes (σ : Session) : Nat :=
  match σ.role with
  | .sender => σ.totalLen
  | .receiver => segOff σ.nextSeq

/-- R37 (e): the written offsets are exactly 0..writtenBytes−1, in rising order (so the buffer is canonical). -/
abbrev bufferOk (σ : Session) : Prop := σ.buf.map Prod.fst = List.range (writtenBytes σ)

/-- R37 (f): the deadline is armed exactly in the states that wait for the peer; next_tx is written exactly in a
SENDER/BROADCAST slot (10_state.md R28); created is not in the future (00_scope.md R14). -/
abbrev timersOk (clock : Millis) (σ : Session) : Prop :=
  σ.deadline.isSome = timedState σ.state ∧
    σ.nextTx.isSome = decide (σ.role = .sender ∧ σ.mode = .broadcast) ∧ σ.created ≤ clock

/-- R37 (g) with R22 and R24: no session has source 0xFF, and the global destination is broadcast mode. -/
abbrev addressOk (σ : Session) : Prop :=
  σ.src ≠ addrGlobal ∧ (σ.dst = addrGlobal ↔ σ.mode = .broadcast)

/-- What holds of a valid slot between commands (10_state.md R37). -/
abbrev SessionInv (cfg : Config) (clock : Millis) (σ : Session) : Prop :=
  allowedState σ.role σ.mode σ.state = true ∧ lengthOk cfg σ ∧ progressOk cfg σ ∧ bufferOk σ ∧
    timersOk clock σ ∧ addressOk σ

/-- The invariant between commands: a legal configuration, N_SESSIONS slots, and R37. -/
structure Inv (s : State) : Prop where
  /-- CFG is legal (00_scope.md R8). -/
  legal : legalConfig s.cfg = true
  /-- slot[0..N_SESSIONS−1] (10_state.md R21). -/
  size : s.slots.length = s.cfg.nSessions
  /-- R37 (a), (c)–(g) of every valid slot. -/
  sessions : ∀ σ ∈ validSessions s, SessionInv s.cfg s.clock σ
  /-- R37 (b): no two valid slots have the same key. -/
  keys : ((validSessions s).map sessionKey).Nodup

/-- Every buffer is in its canonical form. -/
abbrev buffersCanonical (s : State) : Prop := ∀ σ ∈ validSessions s, Memory.wf σ.buf

/-- If the next event is a reset, it latches a legal configuration (70_reset_and_hazards.md R302 (1)). -/
def nextResetLegal (s : State) : Bool :=
  match s.inputs with
  | .reset cfg :: _ => legalConfig cfg
  | _ => true

/-- The END items of a trace, in order. -/
def endsOf : List TraceItem → List EndItem
  | [] => []
  | .tx _ _ :: rest => endsOf rest
  | .ended e :: rest => e :: endsOf rest

/-- The END item of session σ in slot i (30_encoding.md R95), as the statements write it. -/
def endReport (i : Nat) (σ : Session) (outcome : SessState) (cause : Cause) (reason : Option Byte)
    (abortTx : AbortTx) (data : Option (List Byte)) : TraceItem :=
  .ended {
    slot := i, src := σ.src, dst := σ.dst, role := σ.role, mode := σ.mode, pgn := σ.pgn, totalLen := σ.totalLen,
    outcome := outcome, cause := cause, reason := reason, abortTx := abortTx, data := data }

/-- The frames of a trace, in order (20_memory.md R68). -/
def framesOf : List TraceItem → List Frame
  | [] => []
  | .tx f _ :: rest => f :: framesOf rest
  | .ended _ :: rest => framesOf rest

/-- The fields no rule changes while a slot stays valid: all but state, next_seq, window_end, the two times and the
buffer (10_state.md R24; 43_session_table.md R233). -/
abbrev sameTransfer (σ τ : Session) : Prop :=
  τ.role = σ.role ∧ τ.mode = σ.mode ∧ τ.src = σ.src ∧ τ.dst = σ.dst ∧ τ.prio = σ.prio ∧ τ.pgn = σ.pgn ∧
    τ.totalLen = σ.totalLen ∧ τ.numPackets = σ.numPackets ∧ τ.created = σ.created

/-- The `now` operand of an instruction (30_encoding.md R92). -/
def nowOf : Instr → Millis
  | .cmRts now _ _ _ _ _ => now
  | .cmCts now _ _ _ _ _ => now
  | .cmEomAck now _ _ _ _ _ => now
  | .cmBam now _ _ _ _ _ => now
  | .cmAbort now _ _ _ _ => now
  | .dt now _ _ _ _ => now
  | .send now _ _ _ _ _ => now
  | .cancel now _ _ _ => now
  | .rxFrame now _ => now
  | .poll now => now

/-- The DT frame of a sender for the data bytes d, from src to dst at its priority (41_dt_codec.md R143;
42_session_fsm.md R161), written out as the statements do. -/
def senderDt (cfg : Config) (σ : Session) (d : Data8) : Frame :=
  ⟨true, mkId σ.prio cfg.pgnTpdt σ.dst σ.src, d⟩

/-- The frame one POLL transmits for a valid session, or none (43_session_table.md R247; 42_session_fsm.md R172–R174,
R176, R191): the next DT of a connection sender that sends, its EOM_ACK once it awaits the end, and the next DT of a
broadcast sender whose pacing time has come. -/
def dueFrame (cfg : Config) (clock : Millis) (σ : Session) : Option Frame :=
  match σ.role, σ.mode, σ.state, σ.nextTx with
  | .sender, .connection, .sendingData, _ => (frag σ σ.nextSeq).map (senderDt cfg σ)
  | .sender, .connection, .awaitingEom, _ =>
    some ⟨true, mkId σ.prio cfg.pgnTpcm σ.dst σ.src, encEomAck σ.totalLen σ.numPackets σ.pgn⟩
  | .sender, .broadcast, .sendingData, some t => if t ≤ clock then (frag σ σ.nextSeq).map (senderDt cfg σ) else none
  | _, _, _, _ => none

/-! ### Which session a command creates (42_session_fsm.md R194) -/

/-- The row of the opcode table an instruction runs as: RX_FRAME as the row its frame decodes to, if it decodes
(43_session_table.md R239). -/
def rowOf (cfg : Config) (i : Instr) : Instr :=
  match i with
  | .cmRts _ _ _ _ _ _ => i
  | .cmCts _ _ _ _ _ _ => i
  | .cmEomAck _ _ _ _ _ _ => i
  | .cmBam _ _ _ _ _ _ => i
  | .cmAbort _ _ _ _ _ => i
  | .dt _ _ _ _ _ => i
  | .send _ _ _ _ _ _ => i
  | .cancel _ _ _ _ => i
  | .rxFrame now f =>
    match decode cfg (.frame now f) with
    | .ok k => k
    | .error _ => i
  | .poll _ => i

/-- The key of the session that a SEND, an RTS or a BAM asks for (43_session_table.md R237, R240, R241). -/
def requestedKey (cfg : Config) (i : Instr) : Option (Addr × Addr × Role) :=
  match rowOf cfg i with
  | .cmRts _ sa da _ _ _ => some (sa, da, .receiver)
  | .cmCts _ _ _ _ _ _ => none
  | .cmEomAck _ _ _ _ _ _ => none
  | .cmBam _ sa _ _ _ _ => some (sa, addrGlobal, .receiver)
  | .cmAbort _ _ _ _ _ => none
  | .dt _ _ _ _ _ => none
  | .send _ src dst _ _ _ => some (src, dst, .sender)
  | .cancel _ _ _ _ => none
  | .rxFrame _ _ => none
  | .poll _ => none

/-- The slot and the key of the session that instruction i created between s and t, if it did: its status tells. ST_OK
is a new session that lives on, ST_IO_ERROR one whose first frame failed (43_session_table.md R237, R240, R241). -/
def createdSession (i : Instr) (s t : State) : Option (Nat × Addr × Addr × Role) :=
  if t.status = some .ok ∨ t.status = some .ioError then
    match alloc (beginCommand (nowOf i) s), requestedKey s.cfg i with
    | some j, some key => some (j, key)
    | _, _ => none
  else none

/-- The END items of slot j in a trace, in order. -/
def endsAt (j : Nat) (trace : List TraceItem) : List EndItem := (endsOf trace).filter (fun e => e.slot == j)

/-- The END items that report the end of what slot j held at s: none for a free slot, else exactly one, with the key,
mode, pgn and length of its session (30_encoding.md R95). -/
def reportsSlot (j : Nat) (s : State) (ends : List EndItem) : Prop :=
  match slotAt s j with
  | none => ends = []
  | some σ =>
    ∃ e, ends = [e] ∧ e.src = σ.src ∧ e.dst = σ.dst ∧ e.role = σ.role ∧ e.mode = σ.mode ∧ e.pgn = σ.pgn ∧
      e.totalLen = σ.totalLen

/-- k segments of the sender session σ, from the receiver's next_seq on, each passed through its DT frame's data bytes
to the reassembler: the results and the receiver after them (41_dt_codec.md R150). -/
def transferSegments (σ : Session) : Nat → Session → Option (List ReasmResult × Session)
  | 0, ρ => some ([], ρ)
  | k + 1, ρ =>
    match frag σ ρ.nextSeq with
    | none => none
    | some d =>
      match reasm ρ (dtSeq d) (dtPayload d) with
      | none => none
      | some (r, ρ1) =>
        match transferSegments σ k ρ1 with
        | none => none
        | some (rs, ρ2) => some (r :: rs, ρ2)

end Sys2Proof.Machine
end

