-- ==== Sys2Proof/Certificates/Slice0/Obligations.lean ====
section
/-! DEFINITION. The statements about the model, for the provers. Each docstring names the rules of spec/ it formalises.
In all of them `s0` is the state after the envelope of the command (43_session_table.md R235): NOW set, the sweep done,
the output port empty but for what the sweep put into the trace. -/

open Sys2Proof Sys2Proof.Machine

/-! ### Encoding and decoding -/

/-- Words written out from the spec's encodings (30_encoding.md R87, R88; 95_test_vectors.md W1, P1) decode to the
instructions they stand for. -/
def Obligations.WrittenOutWordsDecode : Prop :=
  decode Config.default (.frame 5 ⟨true, 0x1CEC8020, ⟨0x10, 0x14, 0x00, 0x03, 0xFF, 0xEC, 0xFE, 0x00⟩⟩)
      = .ok (.cmRts 5 0x20 0x80 20 3 0x00FEEC) ∧
    decode Config.default (.frame 5 ⟨true, 0x1CEC8020, ⟨0x11, 0x03, 0x01, 0xFF, 0xFF, 0xEC, 0xFE, 0x00⟩⟩)
      = .ok (.cmCts 5 0x20 0x80 3 1 0x00FEEC) ∧
    decode Config.default (.frame 5 ⟨true, 0x1CEC8020, ⟨0x13, 0x14, 0x00, 0x03, 0xFF, 0xEC, 0xFE, 0x00⟩⟩)
      = .ok (.cmEomAck 5 0x20 0x80 20 3 0x00FEEC) ∧
    decode Config.default (.frame 5 ⟨true, 0x1CECFF20, ⟨0x20, 0x32, 0x00, 0x08, 0xFF, 0x45, 0x23, 0x01⟩⟩)
      = .ok (.cmBam 5 0x20 0xFF 50 8 0x012345) ∧
    decode Config.default (.frame 5 ⟨true, 0x1CEC8020, ⟨0xFF, 0x03, 0xFF, 0xFF, 0xFF, 0xEC, 0xFE, 0x00⟩⟩)
      = .ok (.cmAbort 5 0x20 0x80 3 0x00FEEC) ∧
    decode Config.default (.frame 5 ⟨true, 0x1CEB8020, ⟨0x03, 0x0E, 0x0F, 0x10, 0x11, 0x12, 0x13, 0xFF⟩⟩)
      = .ok (.dt 5 0x20 0x80 3 [0x0E, 0x0F, 0x10, 0x11, 0x12, 0x13, 0xFF])

/-- Decoding the encoding of a well-formed instruction gives it back, under every legal configuration. The priority and
the reserved bytes of an encoded frame are the model's choice (log 11): no rule reads them. -/
def Obligations.DecodeOfEncodeIsTheInstruction : Prop :=
  ∀ (cfg : Config) (i : Instr), legalConfig cfg = true → i.wellFormed = true → decode cfg (encode cfg i) = .ok i

/-- 30_encoding.md R93: cmd_op selects the command, and every other value is reserved. -/
def Obligations.CmdOpSelectsTheCommand : Prop :=
  ∀ (cfg : Config) (c : CmdWord),
    (c.op = 0x1 → decode cfg (.command c) = .ok (.send c.now c.src c.dst c.prio c.pgn c.payload)) ∧
    (c.op = 0x2 →
      decode cfg (.command c) = .ok (.cancel c.now c.src c.dst (if c.role = 0 then .sender else .receiver))) ∧
    (c.op = 0x3 → decode cfg (.command c) = .ok (.rxFrame c.now c.frame)) ∧
    (c.op = 0x4 → decode cfg (.command c) = .ok (.poll c.now)) ∧
    (c.op ≠ 0x1 → c.op ≠ 0x2 → c.op ≠ 0x3 → c.op ≠ 0x4 → decode cfg (.command c) = .error (.badCommand c.op))

/-- 30_encoding.md R83: the class of a frame is decided by ext and id[25:16] alone, and the classes are disjoint. -/
def Obligations.FrameClassIsDecidedByExtAndPgnBits : Prop :=
  ∀ (cfg : Config) (f : Frame), legalConfig cfg = true →
    (classify cfg f = .cm ↔ f.ext = true ∧ f.id.toNat / 2 ^ 16 % 2 ^ 10 = cfg.pgnTpcm.toNat / 2 ^ 8) ∧
    (classify cfg f = .dt ↔ f.ext = true ∧ f.id.toNat / 2 ^ 16 % 2 ^ 10 = cfg.pgnTpdt.toNat / 2 ^ 8) ∧
    (classify cfg f = .notTp ↔ f.ext = false ∨
      (f.id.toNat / 2 ^ 16 % 2 ^ 10 ≠ cfg.pgnTpcm.toNat / 2 ^ 8 ∧
        f.id.toNat / 2 ^ 16 % 2 ^ 10 ≠ cfg.pgnTpdt.toNat / 2 ^ 8))

/-- 30_encoding.md R82: the identifier of a transmitted frame is (prio << 26) | (P[17:8] << 16) | (da << 8) | sa. -/
def Obligations.IdentifierIsBuiltFromItsFields : Prop :=
  ∀ (prio : BitVec 3) (p : BitVec 18) (da sa : Addr),
    (mkId prio p da sa).toNat
      = prio.toNat * 2 ^ 26 + p.toNat / 2 ^ 8 * 2 ^ 16 + da.toNat * 2 ^ 8 + sa.toNat

/-- 30_encoding.md R89, R90 for a CM frame, and 40_cm_codec.md R123: byte 0 selects the kind, the fields are the bytes
of the layout, and every other byte 0 is MALFORMED. -/
def Obligations.CmFrameDecodesByItsControlByte : Prop :=
  ∀ (cfg : Config) (now : Millis) (f : Frame) (sa da : Addr) (pgn : Pgn), classify cfg f = .cm →
    sa.toNat = f.id.toNat % 256 → da.toNat = f.id.toNat / 256 % 256 →
    pgn.toNat = f.data.b5.toNat + 256 * f.data.b6.toNat + 65536 * f.data.b7.toNat →
    (f.data.b0 = 0x10 → decode cfg (.frame now f) =
      .ok (.cmRts now sa da (f.data.b1.toNat + 256 * f.data.b2.toNat) f.data.b3.toNat pgn)) ∧
    (f.data.b0 = 0x11 → decode cfg (.frame now f) = .ok (.cmCts now sa da f.data.b1.toNat f.data.b2.toNat pgn)) ∧
    (f.data.b0 = 0x13 → decode cfg (.frame now f) =
      .ok (.cmEomAck now sa da (f.data.b1.toNat + 256 * f.data.b2.toNat) f.data.b3.toNat pgn)) ∧
    (f.data.b0 = 0x20 → decode cfg (.frame now f) =
      .ok (.cmBam now sa da (f.data.b1.toNat + 256 * f.data.b2.toNat) f.data.b3.toNat pgn)) ∧
    (f.data.b0 = 0xFF → decode cfg (.frame now f) = .ok (.cmAbort now sa da f.data.b1 pgn)) ∧
    (f.data.b0 ≠ 0x10 → f.data.b0 ≠ 0x11 → f.data.b0 ≠ 0x13 → f.data.b0 ≠ 0x20 → f.data.b0 ≠ 0xFF →
      decode cfg (.frame now f) = .error (.malformedCm f.data.b0) ∧ decCm f.data = .malformed f.data.b0 pgn)

/-- 40_cm_codec.md R125: decoding an encoder's bytes gives the operands back, and encoding a decoded message gives the
frame back exactly when its reserved bytes are 0xFF. -/
def Obligations.CmCodecRoundTrip : Prop :=
  (∀ (len np n nextSeq : Nat) (reason : Byte) (pgn : Pgn),
    len < 2048 → np < 256 → n < 256 → nextSeq < 256 →
    decCm (encRts len np pgn) = .rts len np pgn ∧ decCm (encEomAck len np pgn) = .eomAck len np pgn ∧
    decCm (encBam len np pgn) = .bam len np pgn ∧ decCm (encCts n nextSeq pgn) = .cts n nextSeq pgn ∧
    decCm (encAbort reason pgn) = .abort reason pgn) ∧
  (∀ (d : Data8) (a b : Nat) (reason : Byte) (pgn : Pgn),
    (decCm d = .rts a b pgn → (encRts a b pgn = d ↔ d.b4 = 0xFF)) ∧
    (decCm d = .eomAck a b pgn → (encEomAck a b pgn = d ↔ d.b4 = 0xFF)) ∧
    (decCm d = .bam a b pgn → (encBam a b pgn = d ↔ d.b4 = 0xFF)) ∧
    (decCm d = .cts a b pgn → (encCts a b pgn = d ↔ d.b3 = 0xFF ∧ d.b4 = 0xFF)) ∧
    (decCm d = .abort reason pgn → (encAbort reason pgn = d ↔ d.b2 = 0xFF ∧ d.b3 = 0xFF ∧ d.b4 = 0xFF)))

/-- 40_cm_codec.md R124: frames that differ only in the reserved bytes of their kind decode to the same message. -/
def Obligations.CmDecoderIgnoresReservedBytes : Prop :=
  ∀ d e : Data8,
    d.b0 = e.b0 → d.b1 = e.b1 → d.b5 = e.b5 → d.b6 = e.b6 → d.b7 = e.b7 →
    (d.b0 ≠ 0xFF → d.b2 = e.b2) → (d.b0 ≠ 0xFF → d.b0 ≠ 0x11 → d.b3 = e.b3) →
    decCm d = decCm e

/-! ### Buffers and segments -/

/-- 20_memory.md R61: what MemWrite and MemRead do, and when each is out of its requirement. That a MemWrite beyond
total_len stops (R61 only requires that there be none) and that a buffer is a list in canonical form are the model's
choice (log 14). -/
def Obligations.BufferReadsGiveWhatWasWritten : Prop :=
  ∀ (σ : Session) (off : Nat) (bytes : List Byte), Memory.wf σ.buf →
    (off + bytes.length ≤ σ.totalLen → ∃ τ, memWrite σ off bytes = some τ ∧ τ = { σ with buf := τ.buf } ∧
      Memory.wf τ.buf ∧ memRead τ off bytes.length = some bytes ∧
      (∀ a, a < off ∨ off + bytes.length ≤ a → Memory.read τ.buf a = Memory.read σ.buf a)) ∧
    (σ.totalLen < off + bytes.length → memWrite σ off bytes = none) ∧
    (∀ n, memRead σ off n = none ↔ ∃ a, off ≤ a ∧ a < off + n ∧ Memory.read σ.buf a = none)

/-- 41_dt_codec.md R140, R141: the number and the geometry of the segments of a payload. -/
def Obligations.SegmentsPartitionThePayload : Prop :=
  ∀ len : Nat, 9 ≤ len → len ≤ 1785 →
    2 ≤ numPacketsOf len ∧ numPacketsOf len ≤ 255 ∧
    7 * (numPacketsOf len - 1) < len ∧ len ≤ 7 * numPacketsOf len ∧
    (∀ i, 1 ≤ i → i ≤ numPacketsOf len → segOff i = 7 * (i - 1)) ∧
    (∀ i, 1 ≤ i → i < numPacketsOf len → segLen len i = 7) ∧
    segLen len (numPacketsOf len) = len - 7 * (numPacketsOf len - 1) ∧
    (∀ a, a < len → ∃ i, (1 ≤ i ∧ i ≤ numPacketsOf len ∧ segOff i ≤ a ∧ a < segOff i + segLen len i) ∧
      ∀ j, 1 ≤ j → j ≤ numPacketsOf len → segOff j ≤ a → a < segOff j + segLen len j → j = i)

/-- 41_dt_codec.md R142: FRAG gives the segment index, the bytes of the segment and 0xFF to the right of them. -/
def Obligations.FragmentCarriesItsSegment : Prop :=
  ∀ (σ : Session) (i : Nat) (payload : List Byte),
    9 ≤ σ.totalLen → σ.totalLen ≤ 1785 → memRead σ 0 σ.totalLen = some payload →
    1 ≤ i → i ≤ numPacketsOf σ.totalLen →
    ∃ d, frag σ i = some d ∧ d.b0.toNat = i ∧
      [d.b1, d.b2, d.b3, d.b4, d.b5, d.b6, d.b7]
        = (payload.drop (7 * (i - 1))).take 7 ++ List.replicate (7 - (σ.totalLen - 7 * (i - 1))) 0xFF

/-- 41_dt_codec.md R145, R146, R147, R148: only the next segment is accepted; its bytes inside the payload are written,
and any other segment changes nothing. -/
def Obligations.ReassemblerTakesOnlyTheNextSegment : Prop :=
  ∀ (σ : Session) (seq : Nat) (p : List Byte),
    9 ≤ σ.totalLen → σ.totalLen ≤ 1785 → σ.numPackets = numPacketsOf σ.totalLen → Memory.wf σ.buf → p.length = 7 →
    1 ≤ σ.nextSeq → σ.nextSeq ≤ σ.numPackets →
    (seq = σ.nextSeq → ∃ τ, reasm σ seq p = some (if seq = σ.numPackets then .complete else .accept, τ) ∧
      τ = { σ with nextSeq := seq + 1, buf := τ.buf } ∧
      memRead τ (7 * (seq - 1)) (min 7 (σ.totalLen - 7 * (seq - 1)))
        = some (p.take (min 7 (σ.totalLen - 7 * (seq - 1)))) ∧
      (∀ a, a < 7 * (seq - 1) ∨ 7 * (seq - 1) + min 7 (σ.totalLen - 7 * (seq - 1)) ≤ a →
        Memory.read τ.buf a = Memory.read σ.buf a)) ∧
    (seq ≠ σ.nextSeq → reasm σ seq p = some (.reject, σ))

/-- 41_dt_codec.md R150: the segments of a payload, fed in order to a new receiver, are accepted and then complete, and
the receiver's buffer is the payload; the last segment's fill bytes are 0xFF and are not written. -/
def Obligations.FragmentThenReassembleGivesThePayload : Prop :=
  ∀ (σ ρ : Session) (payload : List Byte) (np : Nat),
    9 ≤ payload.length → payload.length ≤ 1785 → 7 * (np - 1) < payload.length → payload.length ≤ 7 * np →
    σ.totalLen = payload.length → memRead σ 0 payload.length = some payload →
    ρ.totalLen = payload.length → ρ.numPackets = np → ρ.nextSeq = 1 → ρ.buf = [] →
    ∃ ρ' d, transferSegments σ np ρ = some (List.replicate (np - 1) .accept ++ [.complete], ρ') ∧
      memRead ρ' 0 payload.length = some payload ∧ ρ'.nextSeq = np + 1 ∧
      (∀ a, payload.length ≤ a → Memory.read ρ'.buf a = none) ∧
      frag σ np = some d ∧
      (dtPayload d).drop (payload.length - 7 * (np - 1))
        = List.replicate (7 - (payload.length - 7 * (np - 1))) 0xFF

/-! ### The session table -/

/-- 43_session_table.md R231: lookup gives the one valid slot with the key, or none. -/
def Obligations.LookupFindsTheOneSessionOfAKey : Prop :=
  ∀ (s : State) (src dst : Addr) (role : Role), Inv s →
    (∀ i, lookup src dst role s = some i ↔
      ∃ σ, slotAt s i = some σ ∧ σ.src = src ∧ σ.dst = dst ∧ σ.role = role) ∧
    (lookup src dst role s = none ↔
      ∀ i σ, slotAt s i = some σ → ¬(σ.src = src ∧ σ.dst = dst ∧ σ.role = role))

/-- 43_session_table.md R232: the owners of a CM frame, in ascending order; at most one sender and one receiver. -/
def Obligations.OwnersAreTheMatchingSessions : Prop :=
  ∀ (s : State) (sa da : Addr) (pgn : Pgn),
    (∀ i, i ∈ owners sa da pgn s ↔ ∃ σ, slotAt s i = some σ ∧ σ.pgn = pgn ∧
      ((σ.role = .sender ∧ σ.src = da ∧ σ.dst = sa) ∨ (σ.role = .receiver ∧ σ.src = sa ∧ σ.dst = da))) ∧
    List.Pairwise (· < ·) (owners sa da pgn s) ∧ (Inv s → (owners sa da pgn s).length ≤ 2)

/-- 43_session_table.md R233, its first sentence: alloc takes the lowest slot whose valid bit is 0. The spec leaves no
claim on the index (93_implementation_defined.md U12); this is its own decision D20. -/
def Obligations.AllocTakesTheLowestFreeSlot : Prop :=
  ∀ s : State,
    (∀ i, alloc s = some i ↔
      i < s.slots.length ∧ slotAt s i = none ∧ ∀ j, j < i → (slotAt s j).isSome = true) ∧
    (alloc s = none ↔ ∀ i, i < s.slots.length → (slotAt s i).isSome = true)

/-! ### Transmission, abort and end -/

/-- 42_session_fsm.md R162: one tx appends one TX item with the answer it returns, and touches no session. The answer is
the next one of the environment's list, or a free value when the list is empty (log 2). -/
def Obligations.TxRecordsItsFrameAndAnswer : Prop :=
  ∀ (f : Frame) (s : State),
    (tx f s).2.trace = s.trace ++ [.tx f (tx f s).1] ∧ (tx f s).2.slots = s.slots ∧
    (tx f s).2.clock = s.clock ∧ (tx f s).2.cfg = s.cfg ∧ (tx f s).2.inputs = s.inputs ∧
    (∀ r rest, s.answers = r :: rest → (tx f s).1 = r ∧ (tx f s).2.answers = rest) ∧
    (s.answers = [] → (tx f s).2.answers = [] ∧ (tx f s).2.draws = s.draws + 1)

/-- 42_session_fsm.md R165 with 60_exceptions.md R272: what the abort of session σ in slot i does. In connection mode
five causes send one Abort frame with their reason; every other abort sends none. One END item, the slot freed, every
other slot as it was. -/
def Obligations.AbortReportsAndFrees : Prop :=
  ∀ (i : Nat) (σ : Session) (ev : AbortEvent) (s : State), i < s.slots.length →
    slotAt (abort i σ ev s) i = none ∧ (∀ j, j ≠ i → slotAt (abort i σ ev s) j = slotAt s j) ∧
    (abort i σ ev s).clock = s.clock ∧ (abort i σ ev s).cfg = s.cfg ∧ (abort i σ ev s).inputs = s.inputs ∧
    (∀ (r : Byte) (f : Frame), σ.mode = .connection →
      ((ev = .timeout ∧ r = s.cfg.rsnTimeout) ∨ (ev = .overallTimeout ∧ r = s.cfg.rsnTimeout) ∨
        (ev = .sequence ∧ r = s.cfg.rsnSequenceError) ∨ (ev = .malformedCm ∧ r = s.cfg.rsnUnexpectedData) ∨
        (ev = .cancelled ∧ r = s.cfg.rsnCancel)) →
      f = cmf s.cfg σ (encAbort r σ.pgn) →
      (abort i σ ev s).trace = s.trace ++ [.tx f (tx f s).1, .ended {
        slot := i, src := σ.src, dst := σ.dst, role := σ.role, mode := .connection, pgn := σ.pgn,
        totalLen := σ.totalLen, outcome := .aborted, cause := causeOf ev, reason := some r,
        abortTx := if (tx f s).1 = .ok then .ok else .failed, data := none }]) ∧
    ((σ.mode = .broadcast ∨ ev = .ioError ∨ ∃ r, ev = .peerAbort r) →
      (abort i σ ev s).answers = s.answers ∧ (abort i σ ev s).draws = s.draws ∧
      (abort i σ ev s).trace = s.trace ++ [.ended {
        slot := i, src := σ.src, dst := σ.dst, role := σ.role, mode := σ.mode, pgn := σ.pgn,
        totalLen := σ.totalLen, outcome := .aborted, cause := causeOf ev,
        reason := (match ev with | .peerAbort r => some r | _ => none), abortTx := .none, data := none }])

/-- 42_session_fsm.md R163: a session's transmission that is not answered OK ends the session with IO_ERROR and no Abort
frame. -/
def Obligations.FailedTransmissionEndsTheSession : Prop :=
  ∀ (i : Nat) (σ : Session) (f : Frame) (s : State), i < s.slots.length →
    ((tx f s).1 = .ok → stx i σ f s = (true, (tx f s).2)) ∧
    ((tx f s).1 ≠ .ok → (stx i σ f s).1 = false ∧ slotAt (stx i σ f s).2 i = none ∧
      (∀ j, j ≠ i → slotAt (stx i σ f s).2 j = slotAt s j) ∧
      (stx i σ f s).2.trace =
        s.trace ++ [.tx f (tx f s).1, endReport i σ .aborted .ioError none .none none])

/-- 42_session_fsm.md R164: finish emits END DONE, with the reassembled bytes for a receiver, and frees the slot. -/
def Obligations.FinishReportsDoneAndFrees : Prop :=
  ∀ (i : Nat) (σ : Session) (s : State),
    (σ.role = .sender → finish i σ s = .next { s with
      slots := s.slots.set i none
      trace := s.trace ++ [.ended {
        slot := i, src := σ.src, dst := σ.dst, role := .sender, mode := σ.mode, pgn := σ.pgn,
        totalLen := σ.totalLen, outcome := .done, cause := .none, reason := none, abortTx := .none,
        data := none }] }) ∧
    (∀ d, σ.role = .receiver → memRead σ 0 σ.totalLen = some d → finish i σ s = .next { s with
      slots := s.slots.set i none
      trace := s.trace ++ [.ended {
        slot := i, src := σ.src, dst := σ.dst, role := .receiver, mode := σ.mode, pgn := σ.pgn,
        totalLen := σ.totalLen, outcome := .done, cause := .none, reason := none, abortTx := .none,
        data := some d }] })

/-- The codes of 10_state.md R34 (status), R23 (state) and R22 (valid, role, mode, dl_armed), of 60_exceptions.md R271
(cause) and of 30_encoding.md R95 (abort_tx). -/
def Obligations.CodesAreTheSpecs : Prop :=
  [Status.ok, .busy, .resources, .badLength, .badAddress, .ioError, .noSession, .notTp, .malformedCm, .badFields,
      .ignored, .badCommand, .sequenceError].map (fun x => (statusCode x).toNat) = List.range 13 ∧
    [SessState.idle, .rtsSent, .sendingData, .awaitingEom, .ctsSent, .receivingData, .done, .aborted].map
      (fun x => (stateCode x).toNat) = List.range 8 ∧
    [Cause.none, .ioError, .timeout, .overallTimeout, .peerAbort, .sequence, .malformedCm, .cancelled].map
      causeCode = List.range 8 ∧
    [AbortTx.none, .ok, .failed].map abortTxCode = List.range 3 ∧
    (bitOfRole .sender = 0 ∧ bitOfRole .receiver = 1) ∧ (modeBit .connection = 0 ∧ modeBit .broadcast = 1) ∧
    (validBit none = 0 ∧ ∀ σ, validBit (some σ) = 1) ∧
    ∀ σ, (σ.deadline = none → dlArmedBit σ = 0) ∧ (∀ t, σ.deadline = some t → dlArmedBit σ = 1)

/-! ### The envelope and the sweep -/

/-- 43_session_table.md R236: the sweep ends exactly the sessions whose deadline or overall limit has passed, in
ascending order, TIMEOUT before OVERALL_TIMEOUT, each with one END item and, in connection mode, one Abort frame, and
leaves the others as they are. -/
def Obligations.SweepEndsExactlyThePassedSessions : Prop :=
  ∀ s : State,
    (∀ i σ, slotAt s i = some σ →
      ((∃ d, σ.deadline = some d ∧ d ≤ s.clock) ∨ (s.cfg.tOverall ≠ 0 ∧ s.cfg.tOverall ≤ s.clock - σ.created) →
        slotAt (sweep s) i = none) ∧
      (¬((∃ d, σ.deadline = some d ∧ d ≤ s.clock) ∨ (s.cfg.tOverall ≠ 0 ∧ s.cfg.tOverall ≤ s.clock - σ.created)) →
        slotAt (sweep s) i = some σ)) ∧
    (∀ i, slotAt s i = none → slotAt (sweep s) i = none) ∧
    (endsOf (sweep s).trace).map (fun e => (e.slot, e.cause)) =
      (endsOf s.trace).map (fun e => (e.slot, e.cause)) ++
        (List.range s.slots.length).filterMap (fun i =>
          match slotAt s i with
          | none => none
          | some σ =>
            if expired s.clock σ then some (i, Cause.timeout)
            else if overallPassed s.cfg s.clock σ then some (i, Cause.overallTimeout) else none) ∧
    framesOf (sweep s).trace = framesOf s.trace ++
      (List.range s.slots.length).filterMap (fun i =>
        match slotAt s i with
        | none => none
        | some σ =>
          if (expired s.clock σ || overallPassed s.cfg s.clock σ) && decide (σ.mode = .connection) then
            some (cmf s.cfg σ (encAbort s.cfg.rsnTimeout σ.pgn))
          else none) ∧
    (sweep s).clock = s.clock ∧ (sweep s).cfg = s.cfg

/-- 43_session_table.md R235 and 10_state.md R26, for every instruction: NOW becomes max(NOW, now), a status is
returned, and the configuration, the number of slots and the environment's further events are as they were. -/
def Obligations.EveryCommandSetsNowAndReturnsAStatus : Prop :=
  ∀ (i : Instr) (s t : State), exec i s = .next t →
    t.clock = max s.clock (nowOf i) ∧ t.status.isSome = true ∧ t.cfg = s.cfg ∧
    t.slots.length = s.slots.length ∧ t.inputs = s.inputs

/-- 43_session_table.md R235 and 30_encoding.md R91 (e): a reserved cmd_op returns (ST_BAD_COMMAND, none, []) and leaves
every slot, NOW and the adapter as they were. -/
def Obligations.ReservedCommandChangesNothing : Prop :=
  ∀ (c : CmdWord) (rest : List Event) (s : State),
    legalConfig s.cfg = true → s.inputs = .word (.command c) :: rest →
    c.op ≠ 0x1 → c.op ≠ 0x2 → c.op ≠ 0x3 → c.op ≠ 0x4 →
    step s = .next { s with inputs := rest, trace := [], status := some .badCommand, slotOut := none }

/-! ### SEND -/

/-- 42_session_fsm.md R167, R168 with 43_session_table.md R237: a SEND that passes the checks, to one destination. The
session starts when its RTS is answered OK, and ends at once when it is not. -/
def Obligations.SendStartsAConnectionSession : Prop :=
  ∀ (now : Millis) (src dst : Addr) (prio : BitVec 3) (pgn : Pgn) (payload : List Byte) (s s0 : State) (i : Nat)
    (f : Frame),
    beginCommand now s = s0 → 9 ≤ payload.length → payload.length ≤ 1785 → src ≠ 0xFF → dst ≠ 0xFF →
    lookup src dst .sender s0 = none → alloc s0 = some i →
    f = ⟨true, mkId prio s0.cfg.pgnTpcm dst src, encRts payload.length (numPacketsOf payload.length) pgn⟩ →
    ∃ t, exec (.send now src dst prio pgn payload) s = .next t ∧
      ((tx f s0).1 = .ok → t.status = some .ok ∧ t.slotOut = some i ∧ t.trace = s0.trace ++ [.tx f .ok] ∧
        (∃ τ, slotAt t i = some τ ∧ memRead τ 0 payload.length = some payload ∧
          (∀ a, payload.length ≤ a → Memory.read τ.buf a = none) ∧
          τ = {
            role := .sender, mode := .connection, state := if s0.cfg.waitCts then .rtsSent else .sendingData,
            src := src, dst := dst, prio := prio, pgn := pgn, totalLen := payload.length,
            numPackets := numPacketsOf payload.length, nextSeq := 1, windowEnd := numPacketsOf payload.length,
            deadline := if s0.cfg.waitCts then some (s0.clock + s0.cfg.t3) else none, nextTx := none,
            created := s0.clock, buf := τ.buf }) ∧
        (∀ j, j ≠ i → slotAt t j = slotAt s0 j)) ∧
      ((tx f s0).1 ≠ .ok → t.status = some .ioError ∧ t.slotOut = none ∧ t.slots = s0.slots ∧
        t.trace = s0.trace ++ [.tx f (tx f s0).1, .ended {
          slot := i, src := src, dst := dst, role := .sender, mode := .connection, pgn := pgn,
          totalLen := payload.length, outcome := .aborted, cause := .ioError, reason := none, abortTx := .none,
          data := none }])

/-- 42_session_fsm.md R175 with 43_session_table.md R237: a SEND that passes the checks, to the global destination. -/
def Obligations.SendStartsABroadcastSession : Prop :=
  ∀ (now : Millis) (src : Addr) (prio : BitVec 3) (pgn : Pgn) (payload : List Byte) (s s0 : State) (i : Nat)
    (f : Frame),
    beginCommand now s = s0 → 9 ≤ payload.length → payload.length ≤ 1785 → src ≠ 0xFF →
    lookup src 0xFF .sender s0 = none → alloc s0 = some i →
    f = ⟨true, mkId prio s0.cfg.pgnTpcm 0xFF src, encBam payload.length (numPacketsOf payload.length) pgn⟩ →
    ∃ t, exec (.send now src 0xFF prio pgn payload) s = .next t ∧
      ((tx f s0).1 = .ok → t.status = some .ok ∧ t.slotOut = some i ∧ t.trace = s0.trace ++ [.tx f .ok] ∧
        (∃ τ, slotAt t i = some τ ∧ memRead τ 0 payload.length = some payload ∧
          (∀ a, payload.length ≤ a → Memory.read τ.buf a = none) ∧
          τ = {
            role := .sender, mode := .broadcast, state := .sendingData, src := src, dst := 0xFF, prio := prio,
            pgn := pgn, totalLen := payload.length, numPackets := numPacketsOf payload.length, nextSeq := 1,
            windowEnd := numPacketsOf payload.length, deadline := none,
            nextTx := some (s0.clock + s0.cfg.bamDelay), created := s0.clock, buf := τ.buf }) ∧
        (∀ j, j ≠ i → slotAt t j = slotAt s0 j)) ∧
      ((tx f s0).1 ≠ .ok → t.status = some .ioError ∧ t.slotOut = none ∧ t.slots = s0.slots ∧
        t.trace = s0.trace ++ [.tx f (tx f s0).1, .ended {
          slot := i, src := src, dst := 0xFF, role := .sender, mode := .broadcast, pgn := pgn,
          totalLen := payload.length, outcome := .aborted, cause := .ioError, reason := none, abortTx := .none,
          data := none }])

/-- 43_session_table.md R237: the refusals of SEND, in the order of its checks. Each transmits and creates nothing. -/
def Obligations.SendRefusalsCreateNothing : Prop :=
  ∀ (now : Millis) (src dst : Addr) (prio : BitVec 3) (pgn : Pgn) (payload : List Byte) (s s0 : State),
    beginCommand now s = s0 →
    (payload.length < 9 ∨ 1785 < payload.length →
      exec (.send now src dst prio pgn payload) s = .next { s0 with status := some .badLength }) ∧
    (9 ≤ payload.length → payload.length ≤ 1785 → src = 0xFF →
      exec (.send now src dst prio pgn payload) s = .next { s0 with status := some .badAddress }) ∧
    (9 ≤ payload.length → payload.length ≤ 1785 → src ≠ 0xFF → lookup src dst .sender s0 ≠ none →
      exec (.send now src dst prio pgn payload) s = .next { s0 with status := some .busy }) ∧
    (9 ≤ payload.length → payload.length ≤ 1785 → src ≠ 0xFF → lookup src dst .sender s0 = none → alloc s0 = none →
      exec (.send now src dst prio pgn payload) s = .next { s0 with status := some .resources })

/-! ### CANCEL -/

/-- 42_session_fsm.md R189 with 43_session_table.md R238 and 92_eei_decisions.md D38: the named session ends with cause
CANCELLED; in connection mode an Abort with RSN_CANCEL is its last frame. Without such a session nothing changes. -/
def Obligations.CancelEndsTheNamedSession : Prop :=
  ∀ (now : Millis) (src dst : Addr) (role : Role) (s s0 : State), beginCommand now s = s0 →
    (∀ (i : Nat) (σ : Session) (f : Frame), lookup src dst role s0 = some i → slotAt s0 i = some σ →
      f = cmf s0.cfg σ (encAbort s0.cfg.rsnCancel σ.pgn) →
      ∃ t, exec (.cancel now src dst role) s = .next t ∧ t.status = some .ok ∧ t.slotOut = none ∧
        slotAt t i = none ∧ (∀ j, j ≠ i → slotAt t j = slotAt s0 j) ∧
        t.trace = s0.trace ++
          (if σ.mode = .connection then
            [.tx f (tx f s0).1, endReport i σ .aborted .cancelled (some s0.cfg.rsnCancel)
              (if (tx f s0).1 = .ok then .ok else .failed) none]
          else [endReport i σ .aborted .cancelled none .none none])) ∧
    (lookup src dst role s0 = none →
      exec (.cancel now src dst role) s = .next { s0 with status := some .noSession })

/-! ### Received RTS and BAM -/

/-- 42_session_fsm.md R177 with 43_session_table.md R240: an RTS that passes the checks creates a receiver, answered by a
CTS for the whole message; a CTS that fails ends the new session at once. -/
def Obligations.RtsStartsAReceiver : Prop :=
  ∀ (now : Millis) (sa da : Addr) (len np : Nat) (pgn : Pgn) (s s0 : State) (i : Nat) (f : Frame),
    beginCommand now s = s0 → sa ≠ 0xFF → da ≠ 0xFF → 9 ≤ len → len ≤ 1785 → np = numPacketsOf len →
    lookup sa da .receiver s0 = none → len ≤ s0.cfg.maxRxLen → alloc s0 = some i →
    f = ⟨true, mkId s0.cfg.replyPrio s0.cfg.pgnTpcm sa da, encCts np 1 pgn⟩ →
    ∃ t, exec (.cmRts now sa da len np pgn) s = .next t ∧ t.slotOut = none ∧
      ((tx f s0).1 = .ok → t.status = some .ok ∧ t.trace = s0.trace ++ [.tx f .ok] ∧
        slotAt t i = some {
          role := .receiver, mode := .connection, state := .ctsSent, src := sa, dst := da,
          prio := s0.cfg.replyPrio, pgn := pgn, totalLen := len, numPackets := np, nextSeq := 1, windowEnd := np,
          deadline := some (s0.clock + s0.cfg.t2), nextTx := none, created := s0.clock, buf := [] } ∧
        (∀ j, j ≠ i → slotAt t j = slotAt s0 j)) ∧
      ((tx f s0).1 ≠ .ok → t.status = some .ioError ∧ t.slots = s0.slots ∧
        t.trace = s0.trace ++ [.tx f (tx f s0).1, .ended {
          slot := i, src := sa, dst := da, role := .receiver, mode := .connection, pgn := pgn, totalLen := len,
          outcome := .aborted, cause := .ioError, reason := none, abortTx := .none, data := none }])

/-- 43_session_table.md R239, R240, R248: the refusals of an RTS, in the order of its checks. The table is unchanged; an
invalid RTS sends nothing; BUSY and RESOURCES send one Abort frame back whatever its answer. -/
def Obligations.RtsRefusalsLeaveTheTable : Prop :=
  ∀ (now : Millis) (sa da : Addr) (len np : Nat) (pgn : Pgn) (s s0 : State) (busy full : Frame),
    beginCommand now s = s0 →
    busy = ⟨true, mkId s0.cfg.replyPrio s0.cfg.pgnTpcm sa da, encAbort s0.cfg.rsnBusy pgn⟩ →
    full = ⟨true, mkId s0.cfg.replyPrio s0.cfg.pgnTpcm sa da, encAbort s0.cfg.rsnResources pgn⟩ →
    (sa = 0xFF ∨ da = 0xFF ∨ len < 9 ∨ 1785 < len ∨ np ≠ numPacketsOf len →
      exec (.cmRts now sa da len np pgn) s = .next { s0 with status := some .badFields }) ∧
    (sa ≠ 0xFF → da ≠ 0xFF → 9 ≤ len → len ≤ 1785 → np = numPacketsOf len → lookup sa da .receiver s0 ≠ none →
      ∃ t, exec (.cmRts now sa da len np pgn) s = .next t ∧ t = { s0 with
        status := some .busy, trace := s0.trace ++ [.tx busy (tx busy s0).1], answers := t.answers,
        draws := t.draws }) ∧
    (sa ≠ 0xFF → da ≠ 0xFF → 9 ≤ len → len ≤ 1785 → np = numPacketsOf len → lookup sa da .receiver s0 = none →
      s0.cfg.maxRxLen < len ∨ alloc s0 = none →
      ∃ t, exec (.cmRts now sa da len np pgn) s = .next t ∧ t = { s0 with
        status := some .resources, trace := s0.trace ++ [.tx full (tx full s0).1], answers := t.answers,
        draws := t.draws })

/-- 43_session_table.md R241 with 42_session_fsm.md R178: an accepted BAM creates a broadcast receiver and sends
nothing. -/
def Obligations.BamStartsAReceiver : Prop :=
  ∀ (now : Millis) (sa : Addr) (len np : Nat) (pgn : Pgn) (s s0 : State) (i : Nat),
    beginCommand now s = s0 → sa ≠ 0xFF → 9 ≤ len → len ≤ 1785 → np = numPacketsOf len →
    lookup sa 0xFF .receiver s0 = none → len ≤ s0.cfg.maxRxLen → alloc s0 = some i →
    ∃ t, exec (.cmBam now sa 0xFF len np pgn) s = .next t ∧ t.status = some .ok ∧ t.slotOut = none ∧
      t.trace = s0.trace ∧
      slotAt t i = some {
        role := .receiver, mode := .broadcast, state := .receivingData, src := sa, dst := 0xFF,
        prio := s0.cfg.replyPrio, pgn := pgn, totalLen := len, numPackets := np, nextSeq := 1, windowEnd := np,
        deadline := some (s0.clock + s0.cfg.t1), nextTx := none, created := s0.clock, buf := [] } ∧
      (∀ j, j ≠ i → slotAt t j = slotAt s0 j)

/-- 43_session_table.md R239, R241: the refusals of a BAM, in the order of its checks, all silent. -/
def Obligations.BamRefusalsAreSilent : Prop :=
  ∀ (now : Millis) (sa da : Addr) (len np : Nat) (pgn : Pgn) (s s0 : State), beginCommand now s = s0 →
    (sa = 0xFF ∨ da ≠ 0xFF ∨ len < 9 ∨ 1785 < len ∨ np ≠ numPacketsOf len →
      exec (.cmBam now sa da len np pgn) s = .next { s0 with status := some .badFields }) ∧
    (sa ≠ 0xFF → da = 0xFF → 9 ≤ len → len ≤ 1785 → np = numPacketsOf len → lookup sa 0xFF .receiver s0 ≠ none →
      exec (.cmBam now sa da len np pgn) s = .next { s0 with status := some .busy }) ∧
    (sa ≠ 0xFF → da = 0xFF → 9 ≤ len → len ≤ 1785 → np = numPacketsOf len → lookup sa 0xFF .receiver s0 = none →
      s0.cfg.maxRxLen < len ∨ alloc s0 = none →
      exec (.cmBam now sa da len np pgn) s = .next { s0 with status := some .resources })

/-! ### Received CTS, EOM_ACK, Abort and malformed frames -/

/-- 42_session_fsm.md R169, R170, R171: what a CTS does at the sender that waits for it: hold, grant or mismatch. -/
def Obligations.CtsAtTheWaitingSender : Prop :=
  ∀ (now : Millis) (sa da : Addr) (n nextSeq : Nat) (pgn : Pgn) (s s0 : State) (i : Nat) (σ : Session) (f : Frame),
    Inv s → beginCommand now s = s0 → sa ≠ 0xFF → slotAt s0 i = some σ →
    σ.role = .sender → σ.mode = .connection → σ.state = .rtsSent → σ.src = da → σ.dst = sa → σ.pgn = pgn →
    f = cmf s0.cfg σ (encAbort s0.cfg.rsnSequenceError pgn) →
    ∃ t, exec (.cmCts now sa da n nextSeq pgn) s = .next t ∧ (∀ j, j ≠ i → slotAt t j = slotAt s0 j) ∧
      (n = 0 → t.status = some .ok ∧ t.trace = s0.trace ∧
        slotAt t i = some { σ with deadline := some (s0.clock + s0.cfg.t3) }) ∧
      (n ≠ 0 → nextSeq = σ.nextSeq → t.status = some .ok ∧ t.trace = s0.trace ∧
        slotAt t i = some { σ with
          state := .sendingData, windowEnd := min (σ.nextSeq + n - 1) σ.numPackets, deadline := none }) ∧
      (n ≠ 0 → nextSeq ≠ σ.nextSeq → t.status = some .sequenceError ∧ slotAt t i = none ∧
        t.trace = s0.trace ++
          [.tx f (tx f s0).1, endReport i σ .aborted .sequence (some s0.cfg.rsnSequenceError)
            (if (tx f s0).1 = .ok then .ok else .failed) none])

/-- 43_session_table.md R239, R242 with 42_session_fsm.md R186: a CTS that no owner waits for changes nothing. -/
def Obligations.CtsElsewhereIsIgnored : Prop :=
  ∀ (now : Millis) (sa da : Addr) (n nextSeq : Nat) (pgn : Pgn) (s s0 : State), beginCommand now s = s0 →
    (∀ i σ, slotAt s0 i = some σ → i ∈ owners sa da pgn s0 →
      ¬(σ.role = .sender ∧ σ.mode = .connection ∧ σ.state = .rtsSent ∧ s0.cfg.waitCts = true)) →
    exec (.cmCts now sa da n nextSeq pgn) s = .next { s0 with
      status := some (if sa = 0xFF then .badFields else if owners sa da pgn s0 = [] then .noSession else .ignored) }

/-- 43_session_table.md R243 with 42_session_fsm.md R185: a received EOM_ACK changes no session and sends nothing. -/
def Obligations.EomAckChangesNothing : Prop :=
  ∀ (now : Millis) (sa da : Addr) (len np : Nat) (pgn : Pgn) (s s0 : State), beginCommand now s = s0 →
    exec (.cmEomAck now sa da len np pgn) s = .next { s0 with
      status := some (if sa = 0xFF then .badFields else if owners sa da pgn s0 = [] then .noSession else .ignored) }

/-- 43_session_table.md R244 with 42_session_fsm.md R183: a peer's Abort ends each of its owners, in order, with the
received reason and without a frame; every other session is as it was. -/
def Obligations.PeerAbortEndsItsOwners : Prop :=
  ∀ (now : Millis) (sa da : Addr) (reason : Byte) (pgn : Pgn) (s s0 : State), beginCommand now s = s0 → sa ≠ 0xFF →
    (owners sa da pgn s0 = [] →
      exec (.cmAbort now sa da reason pgn) s = .next { s0 with status := some .noSession }) ∧
    (owners sa da pgn s0 ≠ [] → ∃ t, exec (.cmAbort now sa da reason pgn) s = .next t ∧ t.status = some .ok ∧
      (∀ i, i ∈ owners sa da pgn s0 → slotAt t i = none) ∧
      (∀ i, i ∉ owners sa da pgn s0 → slotAt t i = slotAt s0 i) ∧
      framesOf t.trace = framesOf s0.trace ∧
      (endsOf t.trace).map (fun e => (e.slot, e.outcome, e.cause, e.reason, e.abortTx, e.data)) =
        (endsOf s0.trace).map (fun e => (e.slot, e.outcome, e.cause, e.reason, e.abortTx, e.data)) ++
          (owners sa da pgn s0).map
            (fun i => (i, SessState.aborted, Cause.peerAbort, some reason, AbortTx.none, none)))

/-- 43_session_table.md R245 with 42_session_fsm.md R184, through RX_FRAME: a CM frame with an unknown control byte
returns ST_MALFORMED_CM and ends its owners, each connection-mode owner with one Abort frame. -/
def Obligations.MalformedFrameEndsItsOwners : Prop :=
  ∀ (now : Millis) (fr : Frame) (ctl : Byte) (pgn : Pgn) (s s0 : State), beginCommand now s = s0 →
    classify s0.cfg fr = .cm → decCm fr.data = .malformed ctl pgn → sourceAddr fr.id ≠ 0xFF →
    ∃ t, exec (.rxFrame now fr) s = .next t ∧ t.status = some .malformedCm ∧
      (∀ i, i ∈ owners (sourceAddr fr.id) (destAddr fr.id) pgn s0 → slotAt t i = none) ∧
      (∀ i, i ∉ owners (sourceAddr fr.id) (destAddr fr.id) pgn s0 → slotAt t i = slotAt s0 i) ∧
      (endsOf t.trace).map (fun e => (e.slot, e.outcome, e.cause)) =
        (endsOf s0.trace).map (fun e => (e.slot, e.outcome, e.cause)) ++
          (owners (sourceAddr fr.id) (destAddr fr.id) pgn s0).map
            (fun i => (i, SessState.aborted, Cause.malformedCm)) ∧
      framesOf t.trace = framesOf s0.trace ++
        (owners (sourceAddr fr.id) (destAddr fr.id) pgn s0).filterMap (fun i =>
          match slotAt s0 i with
          | none => none
          | some σ =>
            if σ.mode = .connection then some (cmf s0.cfg σ (encAbort s0.cfg.rsnUnexpectedData pgn)) else none)

/-! ### Received DT -/

/-- 43_session_table.md R246 with 42_session_fsm.md R179: the next segment, not the last, is stored at its offset and
re-arms T1. -/
def Obligations.DtStoresTheNextSegment : Prop :=
  ∀ (now : Millis) (sa da : Addr) (p : List Byte) (s s0 : State) (i : Nat) (σ : Session),
    Inv s → beginCommand now s = s0 → sa ≠ 0xFF → p.length = 7 → slotAt s0 i = some σ →
    σ.role = .receiver → σ.src = sa → σ.dst = da → σ.nextSeq < σ.numPackets →
    ∃ t τ, exec (.dt now sa da σ.nextSeq p) s = .next t ∧ t.status = some .ok ∧ t.trace = s0.trace ∧
      slotAt t i = some τ ∧
      τ = { σ with
        state := .receivingData, nextSeq := σ.nextSeq + 1, deadline := some (s0.clock + s0.cfg.t1), buf := τ.buf } ∧
      memRead τ (7 * (σ.nextSeq - 1)) 7 = some p ∧
      (∀ a, a < 7 * (σ.nextSeq - 1) ∨ 7 * (σ.nextSeq - 1) + 7 ≤ a →
        Memory.read τ.buf a = Memory.read σ.buf a) ∧
      (∀ j, j ≠ i → slotAt t j = slotAt s0 j)

/-- 43_session_table.md R246 with 42_session_fsm.md R180, R181: the last segment ends the session; in connection mode the
EOM_ACK goes first, and only if it is answered OK is the data delivered. -/
def Obligations.LastDtDeliversTheMessage : Prop :=
  ∀ (now : Millis) (sa da : Addr) (p old : List Byte) (s s0 : State) (i : Nat) (σ : Session) (f : Frame),
    Inv s → beginCommand now s = s0 → sa ≠ 0xFF → p.length = 7 → slotAt s0 i = some σ →
    σ.role = .receiver → σ.src = sa → σ.dst = da → σ.nextSeq = σ.numPackets →
    memRead σ 0 (segOff σ.nextSeq) = some old →
    f = ⟨true, mkId s0.cfg.replyPrio s0.cfg.pgnTpcm sa da, encEomAck σ.totalLen σ.numPackets σ.pgn⟩ →
    ∃ t, exec (.dt now sa da σ.nextSeq p) s = .next t ∧ slotAt t i = none ∧
      (∀ j, j ≠ i → slotAt t j = slotAt s0 j) ∧
      (σ.mode = .broadcast → t.status = some .ok ∧ t.trace = s0.trace ++
        [endReport i σ .done .none none .none (some (old ++ p.take (σ.totalLen - old.length)))]) ∧
      (σ.mode = .connection → (tx f s0).1 = .ok → t.status = some .ok ∧ t.trace = s0.trace ++
        [.tx f .ok, endReport i σ .done .none none .none (some (old ++ p.take (σ.totalLen - old.length)))]) ∧
      (σ.mode = .connection → (tx f s0).1 ≠ .ok → t.status = some .ioError ∧ t.trace = s0.trace ++
        [.tx f (tx f s0).1, endReport i σ .aborted .ioError none .none none])

/-- 43_session_table.md R246 with 42_session_fsm.md R182: any other segment, a duplicate too, aborts the session with
cause SEQUENCE. -/
def Obligations.WrongDtAbortsTheReceiver : Prop :=
  ∀ (now : Millis) (sa da : Addr) (seq : Nat) (p : List Byte) (s s0 : State) (i : Nat) (σ : Session) (f : Frame),
    Inv s → beginCommand now s = s0 → sa ≠ 0xFF → slotAt s0 i = some σ →
    σ.role = .receiver → σ.src = sa → σ.dst = da → seq ≠ σ.nextSeq →
    f = ⟨true, mkId s0.cfg.replyPrio s0.cfg.pgnTpcm sa da, encAbort s0.cfg.rsnSequenceError σ.pgn⟩ →
    ∃ t, exec (.dt now sa da seq p) s = .next t ∧ t.status = some .sequenceError ∧ slotAt t i = none ∧
      (∀ j, j ≠ i → slotAt t j = slotAt s0 j) ∧
      t.trace = s0.trace ++
        (if σ.mode = .connection then
          [.tx f (tx f s0).1, endReport i σ .aborted .sequence (some s0.cfg.rsnSequenceError)
            (if (tx f s0).1 = .ok then .ok else .failed) none]
        else [endReport i σ .aborted .sequence none .none none])

/-- 43_session_table.md R239, R246: a DT whose pair has no receiver session, or from SA = 0xFF, changes nothing. -/
def Obligations.DtWithoutAReceiver : Prop :=
  ∀ (now : Millis) (sa da : Addr) (seq : Nat) (p : List Byte) (s s0 : State), beginCommand now s = s0 →
    (sa = 0xFF → exec (.dt now sa da seq p) s = .next { s0 with status := some .badFields }) ∧
    (sa ≠ 0xFF → lookup sa da .receiver s0 = none →
      exec (.dt now sa da seq p) s = .next { s0 with status := some .noSession })

/-! ### RX_FRAME -/

/-- 43_session_table.md R239: RX_FRAME of a frame that decodes to a row of the opcode table is that row's meaning, and
from a state that meets the invariant it completes. -/
def Obligations.RxFrameIsTheMeaningOfItsFrame : Prop :=
  ∀ (now : Millis) (f : Frame) (i : Instr) (s : State), decode s.cfg (.frame now f) = .ok i →
    exec (.rxFrame now f) s = exec i s ∧
    (Inv s → ∃ t, exec (.rxFrame now f) s = .next t ∧ exec i s = .next t)

/-- 43_session_table.md R239: a frame that is no TP frame, or whose source is 0xFF, has no effect beyond the sweep. -/
def Obligations.RxFrameRefusals : Prop :=
  ∀ (now : Millis) (f : Frame) (s s0 : State), beginCommand now s = s0 →
    (classify s0.cfg f = .notTp → exec (.rxFrame now f) s = .next { s0 with status := some .notTp }) ∧
    (classify s0.cfg f ≠ .notTp → sourceAddr f.id = 0xFF →
      exec (.rxFrame now f) s = .next { s0 with status := some .badFields })

/-- 30_encoding.md R84 and 93_implementation_defined.md U10: two frames that differ only in their priority bits have the
same effect. -/
def Obligations.PriorityBitsAreNotRead : Prop :=
  ∀ (now : Millis) (f g : Frame) (s : State),
    f.ext = g.ext → f.data = g.data → f.id.toNat % 2 ^ 26 = g.id.toNat % 2 ^ 26 →
    exec (.rxFrame now f) s = exec (.rxFrame now g) s

/-! ### POLL -/

/-- 43_session_table.md R247: the frames of one POLL are the sweep's, then at most one per sender session, in slot
order. -/
def Obligations.PollSendsTheDueFramesInOrder : Prop :=
  ∀ (now : Millis) (s s0 : State), Inv s → beginCommand now s = s0 →
    ∃ t, exec (.poll now) s = .next t ∧ t.status = some .ok ∧
      framesOf t.trace = framesOf s0.trace ++ (List.range s0.slots.length).filterMap (fun i =>
        match slotAt s0 i with
        | none => none
        | some σ => dueFrame s0.cfg s0.clock σ)

/-- 42_session_fsm.md R172: a POLL sends one DT of a connection sender in SENDING_DATA and advances it. -/
def Obligations.PollAdvancesAConnectionSender : Prop :=
  ∀ (now : Millis) (s s0 : State) (i : Nat) (σ : Session) (d : Data8), Inv s → beginCommand now s = s0 →
    slotAt s0 i = some σ → σ.role = .sender → σ.mode = .connection → σ.state = .sendingData →
    frag σ σ.nextSeq = some d →
    ∃ t r, exec (.poll now) s = .next t ∧ t.status = some .ok ∧
      .tx ⟨true, mkId σ.prio s0.cfg.pgnTpdt σ.dst σ.src, d⟩ r ∈ t.trace ∧
      (r ≠ .ok → slotAt t i = none ∧ endReport i σ .aborted .ioError none .none none ∈ t.trace) ∧
      (r = .ok → slotAt t i = some { σ with
        nextSeq := σ.nextSeq + 1
        state := if σ.nextSeq = σ.numPackets then .awaitingEom
          else if σ.nextSeq = σ.windowEnd then .rtsSent else .sendingData
        deadline := if σ.nextSeq ≠ σ.numPackets ∧ σ.nextSeq = σ.windowEnd then some (s0.clock + s0.cfg.t3)
          else none })

/-- 42_session_fsm.md R173: a POLL ends a connection sender in AWAITING_EOM with its EOM_ACK. -/
def Obligations.PollEndsASenderWithItsEomAck : Prop :=
  ∀ (now : Millis) (s s0 : State) (i : Nat) (σ : Session), Inv s → beginCommand now s = s0 →
    slotAt s0 i = some σ → σ.state = .awaitingEom →
    ∃ t r, exec (.poll now) s = .next t ∧ t.status = some .ok ∧ slotAt t i = none ∧
      .tx ⟨true, mkId σ.prio s0.cfg.pgnTpcm σ.dst σ.src, encEomAck σ.totalLen σ.numPackets σ.pgn⟩ r ∈ t.trace ∧
      endReport i σ (if r = .ok then .done else .aborted) (if r = .ok then .none else .ioError) none .none none
        ∈ t.trace

/-- 42_session_fsm.md R176: a POLL sends one DT of a broadcast sender once its pacing time has come, and the last DT ends
it. -/
def Obligations.PollPacesABroadcastSender : Prop :=
  ∀ (now : Millis) (s s0 : State) (i : Nat) (σ : Session) (due : Millis) (d : Data8), Inv s →
    beginCommand now s = s0 → slotAt s0 i = some σ → σ.role = .sender → σ.mode = .broadcast →
    σ.nextTx = some due → frag σ σ.nextSeq = some d →
    ∃ t, exec (.poll now) s = .next t ∧ t.status = some .ok ∧
      (s0.clock < due → slotAt t i = some σ) ∧
      (due ≤ s0.clock → ∃ r, .tx ⟨true, mkId σ.prio s0.cfg.pgnTpdt 0xFF σ.src, d⟩ r ∈ t.trace ∧
        (r ≠ .ok → slotAt t i = none ∧ endReport i σ .aborted .ioError none .none none ∈ t.trace) ∧
        (r = .ok → σ.nextSeq < σ.numPackets → slotAt t i = some { σ with
          nextSeq := σ.nextSeq + 1, nextTx := some (s0.clock + s0.cfg.bamDelay) }) ∧
        (r = .ok → σ.nextSeq = σ.numPackets →
          slotAt t i = none ∧ endReport i σ .done .none none .none none ∈ t.trace))

/-- 42_session_fsm.md R174, R191 and 43_session_table.md R247: a POLL leaves a waiting sender and every receiver as they
are. -/
def Obligations.PollLeavesWaitingSessionsAlone : Prop :=
  ∀ (now : Millis) (s s0 : State), Inv s → beginCommand now s = s0 →
    ∃ t, exec (.poll now) s = .next t ∧ t.status = some .ok ∧
      (∀ i σ, slotAt s0 i = some σ → σ.role = .receiver ∨ σ.state = .rtsSent → slotAt t i = some σ) ∧
      (∀ i, slotAt s0 i = none → slotAt t i = none)

/-! ### Frames of the instructions -/

/-- 10_state.md R24 with R31: while a slot stays valid, no instruction changes what was fixed at its allocation, nor the
buffer of a sender. -/
def Obligations.TransferFieldsNeverChange : Prop :=
  ∀ (i : Instr) (s t : State) (j : Nat) (σ τ : Session), exec i s = .next t →
    slotAt (beginCommand (nowOf i) s) j = some σ → slotAt t j = some τ →
    sameTransfer σ τ ∧ (σ.role = .sender → τ.buf = σ.buf)

/-! ### The whole machine -/

/-- A step whose next event is an input word that decodes to i is exec i, with that event taken. A frame that is no row
of the table (30_encoding.md R91 (a), (d)) runs as RX_FRAME. With no event left a step changes nothing (60_exceptions.md
R284). An illegal configuration is refused (00_scope.md R8). The lists of events and answers, and that a reset keeps them,
are the model's choice (logs 1, 2 and 10). -/
def Obligations.StepRunsTheDecodedInstruction : Prop :=
  ∀ s : State, (s.inputs = [] → step s = .next s) ∧
    (∀ (w : InputWord) (rest : List Event), s.inputs = .word w :: rest →
      (legalConfig s.cfg = false → step s = .refused .illegalConfig) ∧
      (legalConfig s.cfg = true → ∀ i, decode s.cfg w = .ok i → step s = exec i { s with inputs := rest }) ∧
      (legalConfig s.cfg = true → ∀ e now f, decode s.cfg w = .error e → w = .frame now f →
        step s = exec (.rxFrame now f) { s with inputs := rest })) ∧
    ∀ (cfg : Config) (rest : List Event) (t : State), s.inputs = .reset cfg :: rest → step s = .next t →
      t.inputs = rest ∧ t.answers = s.answers ∧ t.draws = s.draws

/-- 70_reset_and_hazards.md R300 and 00_scope.md R8: what a reset leaves, and that an illegal configuration is
refused. -/
def Obligations.ResetReplacesTheState : Prop :=
  ∀ (s : State) (cfg : Config) (rest : List Event), s.inputs = .reset cfg :: rest →
    (legalConfig cfg = true → ∃ t, step s = .next t ∧ t.cfg = cfg ∧ t.clock = 0 ∧ t.trace = [] ∧
      t.slots.length = cfg.nSessions ∧ (∀ i, slotAt t i = none)) ∧
    (legalConfig cfg = false → step s = .refused .illegalConfig)

/-- The invariant of 10_state.md R37 holds after a reset with any legal configuration, State.reset among them. -/
def Obligations.ResetSatisfiesTheInvariant : Prop :=
  Inv State.reset ∧ ∀ cfg : Config, legalConfig cfg = true → Inv (State.resetWith cfg)

/-- 10_state.md R37: every step from a state that meets the invariant leads to one that meets it. -/
def Obligations.StepKeepsTheInvariant : Prop :=
  ∀ s t : State, Inv s → step s = .next t → Inv t

/-- Every step keeps every buffer in its canonical form, from every state. -/
def Obligations.StepKeepsBuffersCanonical : Prop :=
  ∀ s t : State, buffersCanonical s → step s = .next t → buffersCanonical t

/-- Every well-formed instruction completes from every state that meets the invariant. -/
def Obligations.EveryInstructionCompletes : Prop :=
  ∀ (i : Instr) (s : State), Inv s → i.wellFormed = true → ∃ t, exec i s = .next t ∧ t.status.isSome = true

/-- 30_encoding.md R99 and 60_exceptions.md R277, "No error in this layer terminates the process": from a state that
meets the invariant no step stops, whatever the next event is, unless it is a reset with an illegal configuration. -/
def Obligations.NoStepStops : Prop :=
  ∀ s : State, Inv s → nextResetLegal s = true → ∃ t, step s = .next t

/-- 42_session_fsm.md R194: every session that leaves the table has exactly one END item. A slot in which the command
creates no session either keeps its session and reports nothing, or is free after the command and reports its session
once. The one slot in which it does, if any, reports the session it held before, if any, and then holds the new session
(ST_OK) or reports it too (ST_IO_ERROR). The last clause counts: sessions before and created are sessions after and END
items. -/
def Obligations.EverySessionThatLeavesHasOneEnd : Prop :=
  ∀ (i : Instr) (s t : State), exec i s = .next t →
    (∀ j, (∀ key, createdSession i s t ≠ some (j, key)) →
      (∃ σ τ, slotAt s j = some σ ∧ slotAt t j = some τ ∧ sameTransfer σ τ ∧ endsAt j t.trace = []) ∨
        (slotAt t j = none ∧ reportsSlot j s (endsAt j t.trace))) ∧
    (∀ j src dst role, createdSession i s t = some (j, src, dst, role) →
      (t.status = some .ok → reportsSlot j s (endsAt j t.trace) ∧
        ∃ τ, slotAt t j = some τ ∧ τ.src = src ∧ τ.dst = dst ∧ τ.role = role ∧ τ.created = t.clock) ∧
      (t.status = some .ioError → slotAt t j = none ∧
        ∃ old e, endsAt j t.trace = old ++ [e] ∧ reportsSlot j s old ∧ e.src = src ∧ e.dst = dst ∧ e.role = role ∧
          e.outcome = .aborted ∧ e.cause = .ioError)) ∧
    (validSessions t).length + (endsOf t.trace).length
      = (validSessions s).length + (if createdSession i s t = none then 0 else 1)

/-- 42_session_fsm.md R187 with 43_session_table.md R236: a session whose deadline is not later than the new NOW ends
with cause TIMEOUT in the next command, whatever the command is. -/
def Obligations.PassedDeadlineEndsTheSession : Prop :=
  ∀ (i : Instr) (s : State) (j : Nat) (σ : Session) (d : Millis), Inv s → i.wellFormed = true →
    slotAt s j = some σ → σ.deadline = some d → d ≤ max s.clock (nowOf i) →
    slotAt (beginCommand (nowOf i) s) j = none ∧
    ∃ t e, exec i s = .next t ∧ e ∈ endsOf t.trace ∧ e.slot = j ∧ e.src = σ.src ∧ e.dst = σ.dst ∧
      e.role = σ.role ∧ e.outcome = .aborted ∧ e.cause = .timeout

/-- 42_session_fsm.md R161: the frames of a sender go from src to dst at its own priority, those of a receiver from dst
to src at REPLY_PRIO, a CM frame with PGN_TPCM and a DT frame with PGN_TPDT. -/
def Obligations.SessionFramesAreAddressedByRole : Prop :=
  ∀ (cfg : Config) (σ : Session) (d : Data8),
    (σ.role = .sender → cmf cfg σ d = ⟨true, mkId σ.prio cfg.pgnTpcm σ.dst σ.src, d⟩ ∧
      dtf cfg σ d = ⟨true, mkId σ.prio cfg.pgnTpdt σ.dst σ.src, d⟩) ∧
    (σ.role = .receiver → cmf cfg σ d = ⟨true, mkId cfg.replyPrio cfg.pgnTpcm σ.src σ.dst, d⟩ ∧
      dtf cfg σ d = ⟨true, mkId cfg.replyPrio cfg.pgnTpdt σ.src σ.dst, d⟩)
end

