-- ==== Sys2Proof/Laws/State.lean ====
section
/-! SUPPORT. One lemma per field for each update of a state or a session, and what slot i holds after an update of the
session table. -/

namespace Sys2Proof.Machine

/-! ### setSlot -/

@[simp] theorem setSlot_slots (i : Nat) (v : Option Session) (s : State) : (setSlot i v s).slots = s.slots.set i v := rfl
@[simp] theorem setSlot_clock (i : Nat) (v : Option Session) (s : State) : (setSlot i v s).clock = s.clock := rfl
@[simp] theorem setSlot_cfg (i : Nat) (v : Option Session) (s : State) : (setSlot i v s).cfg = s.cfg := rfl
@[simp] theorem setSlot_trace (i : Nat) (v : Option Session) (s : State) : (setSlot i v s).trace = s.trace := rfl
@[simp] theorem setSlot_status (i : Nat) (v : Option Session) (s : State) : (setSlot i v s).status = s.status := rfl
@[simp] theorem setSlot_slotOut (i : Nat) (v : Option Session) (s : State) : (setSlot i v s).slotOut = s.slotOut := rfl
@[simp] theorem setSlot_inputs (i : Nat) (v : Option Session) (s : State) : (setSlot i v s).inputs = s.inputs := rfl
@[simp] theorem setSlot_answers (i : Nat) (v : Option Session) (s : State) : (setSlot i v s).answers = s.answers := rfl
@[simp] theorem setSlot_draws (i : Nat) (v : Option Session) (s : State) : (setSlot i v s).draws = s.draws := rfl

/-! ### free -/

@[simp] theorem free_slots (i : Nat) (s : State) : (free i s).slots = s.slots.set i none := rfl
@[simp] theorem free_clock (i : Nat) (s : State) : (free i s).clock = s.clock := rfl
@[simp] theorem free_cfg (i : Nat) (s : State) : (free i s).cfg = s.cfg := rfl
@[simp] theorem free_trace (i : Nat) (s : State) : (free i s).trace = s.trace := rfl
@[simp] theorem free_status (i : Nat) (s : State) : (free i s).status = s.status := rfl
@[simp] theorem free_slotOut (i : Nat) (s : State) : (free i s).slotOut = s.slotOut := rfl
@[simp] theorem free_inputs (i : Nat) (s : State) : (free i s).inputs = s.inputs := rfl
@[simp] theorem free_answers (i : Nat) (s : State) : (free i s).answers = s.answers := rfl
@[simp] theorem free_draws (i : Nat) (s : State) : (free i s).draws = s.draws := rfl

/-! ### emit -/

@[simp] theorem emit_slots (item : TraceItem) (s : State) : (emit item s).slots = s.slots := rfl
@[simp] theorem emit_clock (item : TraceItem) (s : State) : (emit item s).clock = s.clock := rfl
@[simp] theorem emit_cfg (item : TraceItem) (s : State) : (emit item s).cfg = s.cfg := rfl
@[simp] theorem emit_trace (item : TraceItem) (s : State) : (emit item s).trace = s.trace ++ [item] := rfl
@[simp] theorem emit_status (item : TraceItem) (s : State) : (emit item s).status = s.status := rfl
@[simp] theorem emit_slotOut (item : TraceItem) (s : State) : (emit item s).slotOut = s.slotOut := rfl
@[simp] theorem emit_inputs (item : TraceItem) (s : State) : (emit item s).inputs = s.inputs := rfl
@[simp] theorem emit_answers (item : TraceItem) (s : State) : (emit item s).answers = s.answers := rfl
@[simp] theorem emit_draws (item : TraceItem) (s : State) : (emit item s).draws = s.draws := rfl

/-! ### arm -/

@[simp] theorem arm_role (clock t : Millis) (σ : Session) : (arm clock t σ).role = σ.role := rfl
@[simp] theorem arm_mode (clock t : Millis) (σ : Session) : (arm clock t σ).mode = σ.mode := rfl
@[simp] theorem arm_state (clock t : Millis) (σ : Session) : (arm clock t σ).state = σ.state := rfl
@[simp] theorem arm_src (clock t : Millis) (σ : Session) : (arm clock t σ).src = σ.src := rfl
@[simp] theorem arm_dst (clock t : Millis) (σ : Session) : (arm clock t σ).dst = σ.dst := rfl
@[simp] theorem arm_prio (clock t : Millis) (σ : Session) : (arm clock t σ).prio = σ.prio := rfl
@[simp] theorem arm_pgn (clock t : Millis) (σ : Session) : (arm clock t σ).pgn = σ.pgn := rfl
@[simp] theorem arm_totalLen (clock t : Millis) (σ : Session) : (arm clock t σ).totalLen = σ.totalLen := rfl
@[simp] theorem arm_numPackets (clock t : Millis) (σ : Session) : (arm clock t σ).numPackets = σ.numPackets := rfl
@[simp] theorem arm_nextSeq (clock t : Millis) (σ : Session) : (arm clock t σ).nextSeq = σ.nextSeq := rfl
@[simp] theorem arm_windowEnd (clock t : Millis) (σ : Session) : (arm clock t σ).windowEnd = σ.windowEnd := rfl
@[simp] theorem arm_deadline (clock t : Millis) (σ : Session) : (arm clock t σ).deadline = some (clock + t) := rfl
@[simp] theorem arm_nextTx (clock t : Millis) (σ : Session) : (arm clock t σ).nextTx = σ.nextTx := rfl
@[simp] theorem arm_created (clock t : Millis) (σ : Session) : (arm clock t σ).created = σ.created := rfl
@[simp] theorem arm_buf (clock t : Millis) (σ : Session) : (arm clock t σ).buf = σ.buf := rfl

/-! ### disarm -/

@[simp] theorem disarm_role (σ : Session) : (disarm σ).role = σ.role := rfl
@[simp] theorem disarm_mode (σ : Session) : (disarm σ).mode = σ.mode := rfl
@[simp] theorem disarm_state (σ : Session) : (disarm σ).state = σ.state := rfl
@[simp] theorem disarm_src (σ : Session) : (disarm σ).src = σ.src := rfl
@[simp] theorem disarm_dst (σ : Session) : (disarm σ).dst = σ.dst := rfl
@[simp] theorem disarm_prio (σ : Session) : (disarm σ).prio = σ.prio := rfl
@[simp] theorem disarm_pgn (σ : Session) : (disarm σ).pgn = σ.pgn := rfl
@[simp] theorem disarm_totalLen (σ : Session) : (disarm σ).totalLen = σ.totalLen := rfl
@[simp] theorem disarm_numPackets (σ : Session) : (disarm σ).numPackets = σ.numPackets := rfl
@[simp] theorem disarm_nextSeq (σ : Session) : (disarm σ).nextSeq = σ.nextSeq := rfl
@[simp] theorem disarm_windowEnd (σ : Session) : (disarm σ).windowEnd = σ.windowEnd := rfl
@[simp] theorem disarm_deadline (σ : Session) : (disarm σ).deadline = none := rfl
@[simp] theorem disarm_nextTx (σ : Session) : (disarm σ).nextTx = σ.nextTx := rfl
@[simp] theorem disarm_created (σ : Session) : (disarm σ).created = σ.created := rfl
@[simp] theorem disarm_buf (σ : Session) : (disarm σ).buf = σ.buf := rfl

/-! ### referenceProceed -/

@[simp] theorem referenceProceed_role (σ : Session) : (referenceProceed σ).role = σ.role := rfl
@[simp] theorem referenceProceed_mode (σ : Session) : (referenceProceed σ).mode = σ.mode := rfl
@[simp] theorem referenceProceed_state (σ : Session) : (referenceProceed σ).state = .sendingData := rfl
@[simp] theorem referenceProceed_src (σ : Session) : (referenceProceed σ).src = σ.src := rfl
@[simp] theorem referenceProceed_dst (σ : Session) : (referenceProceed σ).dst = σ.dst := rfl
@[simp] theorem referenceProceed_prio (σ : Session) : (referenceProceed σ).prio = σ.prio := rfl
@[simp] theorem referenceProceed_pgn (σ : Session) : (referenceProceed σ).pgn = σ.pgn := rfl
@[simp] theorem referenceProceed_totalLen (σ : Session) : (referenceProceed σ).totalLen = σ.totalLen := rfl
@[simp] theorem referenceProceed_numPackets (σ : Session) : (referenceProceed σ).numPackets = σ.numPackets := rfl
@[simp] theorem referenceProceed_nextSeq (σ : Session) : (referenceProceed σ).nextSeq = σ.nextSeq := rfl
@[simp] theorem referenceProceed_windowEnd (σ : Session) : (referenceProceed σ).windowEnd = σ.numPackets := rfl
@[simp] theorem referenceProceed_deadline (σ : Session) : (referenceProceed σ).deadline = none := rfl
@[simp] theorem referenceProceed_nextTx (σ : Session) : (referenceProceed σ).nextTx = σ.nextTx := rfl
@[simp] theorem referenceProceed_created (σ : Session) : (referenceProceed σ).created = σ.created := rfl
@[simp] theorem referenceProceed_buf (σ : Session) : (referenceProceed σ).buf = σ.buf := rfl

/-! ### afterBamDt -/

@[simp] theorem afterBamDt_role (cfg : Config) (clock : Millis) (σ : Session) : (afterBamDt cfg clock σ).role = σ.role := rfl
@[simp] theorem afterBamDt_mode (cfg : Config) (clock : Millis) (σ : Session) : (afterBamDt cfg clock σ).mode = σ.mode := rfl
@[simp] theorem afterBamDt_state (cfg : Config) (clock : Millis) (σ : Session) : (afterBamDt cfg clock σ).state = σ.state := rfl
@[simp] theorem afterBamDt_src (cfg : Config) (clock : Millis) (σ : Session) : (afterBamDt cfg clock σ).src = σ.src := rfl
@[simp] theorem afterBamDt_dst (cfg : Config) (clock : Millis) (σ : Session) : (afterBamDt cfg clock σ).dst = σ.dst := rfl
@[simp] theorem afterBamDt_prio (cfg : Config) (clock : Millis) (σ : Session) : (afterBamDt cfg clock σ).prio = σ.prio := rfl
@[simp] theorem afterBamDt_pgn (cfg : Config) (clock : Millis) (σ : Session) : (afterBamDt cfg clock σ).pgn = σ.pgn := rfl
@[simp] theorem afterBamDt_totalLen (cfg : Config) (clock : Millis) (σ : Session) : (afterBamDt cfg clock σ).totalLen = σ.totalLen := rfl
@[simp] theorem afterBamDt_numPackets (cfg : Config) (clock : Millis) (σ : Session) : (afterBamDt cfg clock σ).numPackets = σ.numPackets := rfl
@[simp] theorem afterBamDt_nextSeq (cfg : Config) (clock : Millis) (σ : Session) : (afterBamDt cfg clock σ).nextSeq = σ.nextSeq + 1 := rfl
@[simp] theorem afterBamDt_windowEnd (cfg : Config) (clock : Millis) (σ : Session) : (afterBamDt cfg clock σ).windowEnd = σ.windowEnd := rfl
@[simp] theorem afterBamDt_deadline (cfg : Config) (clock : Millis) (σ : Session) : (afterBamDt cfg clock σ).deadline = σ.deadline := rfl
@[simp] theorem afterBamDt_nextTx (cfg : Config) (clock : Millis) (σ : Session) : (afterBamDt cfg clock σ).nextTx = some (clock + cfg.bamDelay) := rfl
@[simp] theorem afterBamDt_created (cfg : Config) (clock : Millis) (σ : Session) : (afterBamDt cfg clock σ).created = σ.created := rfl
@[simp] theorem afterBamDt_buf (cfg : Config) (clock : Millis) (σ : Session) : (afterBamDt cfg clock σ).buf = σ.buf := rfl

/-! ### A command's return -/

theorem ret_eq (st : Status) (s : State) : ret st s = .next { s with status := some st } := rfl

theorem retSlot_eq (st : Status) (i : Nat) (s : State) :
    retSlot st i s = .next { s with status := some st, slotOut := some i } := rfl

/-! ### What slot i holds -/

/-- A slot depends on the slot array alone. -/
theorem slotAt_congr {s t : State} (h : t.slots = s.slots) (i : Nat) : slotAt t i = slotAt s i := by
  simp [slotAt, h]

theorem slotAt_eq_some_iff (s : State) (i : Nat) (σ : Session) :
    slotAt s i = some σ ↔ s.slots[i]? = some (some σ) := by
  simp only [slotAt, List.getD_eq_getElem?_getD]
  cases h : s.slots[i]? <;> simp

/-- A valid slot's index is one of the table's. -/
theorem lt_of_slotAt {s : State} {i : Nat} {σ : Session} (h : slotAt s i = some σ) : i < s.slots.length := by
  rw [slotAt_eq_some_iff] at h
  exact (List.getElem?_eq_some_iff.1 h).1

theorem slotAt_setSlot (s : State) (i j : Nat) (v : Option Session) :
    slotAt (setSlot i v s) j = if i = j ∧ j < s.slots.length then v else slotAt s j := by
  simp only [slotAt, setSlot_slots, List.getD_eq_getElem?_getD, List.getElem?_set]
  by_cases hij : i = j
  · subst hij
    by_cases hlt : i < s.slots.length <;> simp [hlt]
  · simp [hij]

theorem slotAt_setSlot_same {s : State} {i : Nat} (h : i < s.slots.length) (v : Option Session) :
    slotAt (setSlot i v s) i = v := by
  simp [slotAt_setSlot, h]

theorem slotAt_setSlot_other {s : State} {i j : Nat} (h : j ≠ i) (v : Option Session) :
    slotAt (setSlot i v s) j = slotAt s j := by
  rw [slotAt_setSlot, if_neg (by rintro ⟨rfl, -⟩; exact h rfl)]

/-- A freed slot is free, whether or not its index is one of the table's. -/
@[simp] theorem slotAt_free_same (s : State) (i : Nat) : slotAt (free i s) i = none := by
  rw [free, slotAt_setSlot]
  by_cases hlt : i < s.slots.length
  · simp [hlt]
  · simp only [hlt, and_false, if_false, slotAt, List.getD_eq_getElem?_getD]
    rw [List.getElem?_eq_none (Nat.le_of_not_lt hlt)]
    rfl

theorem slotAt_free_other {s : State} {i j : Nat} (h : j ≠ i) : slotAt (free i s) j = slotAt s j :=
  slotAt_setSlot_other h none

@[simp] theorem slotAt_emit (item : TraceItem) (s : State) (i : Nat) : slotAt (emit item s) i = slotAt s i := rfl

/-- Freeing again what was just allocated leaves the table as it was. -/
theorem free_setSlot_slots (i : Nat) (v : Option Session) (s : State) (h : slotAt s i = none) :
    (free i (setSlot i v s)).slots = s.slots := by
  simp only [free_slots, setSlot_slots, List.set_set]
  apply List.ext_getElem?
  intro j
  rw [List.getElem?_set]
  by_cases hij : i = j
  · subst hij
    simp only [slotAt, List.getD_eq_getElem?_getD] at h
    cases hj : s.slots[i]? with
    | none => simp [List.getElem?_eq_none_iff.1 hj]
    | some w => simp_all [(List.getElem?_eq_some_iff.1 hj).1]
  · simp [hij]

/-! ### Allocation and lookup -/

/-- alloc gives a free slot of the table. -/
theorem alloc_spec {s : State} {i : Nat} (h : alloc s = some i) :
    i < s.slots.length ∧ slotAt s i = none := by
  rw [alloc, List.findIdx?_eq_some_iff_getElem] at h
  obtain ⟨hlt, hn, -⟩ := h
  exact ⟨hlt, by simp [slotAt, List.getD_eq_getElem?_getD, List.getElem?_eq_getElem hlt, Option.isNone_iff_eq_none.1 hn]⟩

theorem hasKey_eq_true_iff (src dst : Addr) (role : Role) (v : Option Session) :
    hasKey src dst role v = true ↔ ∃ σ, v = some σ ∧ σ.src = src ∧ σ.dst = dst ∧ σ.role = role := by
  cases v <;> simp [hasKey, and_assoc]

/-- lookup gives a valid slot that has the key. -/
theorem lookup_spec {s : State} {src dst : Addr} {role : Role} {i : Nat} (h : lookup src dst role s = some i) :
    ∃ σ, slotAt s i = some σ ∧ σ.src = src ∧ σ.dst = dst ∧ σ.role = role := by
  rw [lookup, List.findIdx?_eq_some_iff_getElem] at h
  obtain ⟨hlt, hk, -⟩ := h
  obtain ⟨σ, hσ, hkey⟩ := (hasKey_eq_true_iff _ _ _ _).1 hk
  exact ⟨σ, by simp [slotAt, List.getD_eq_getElem?_getD, List.getElem?_eq_getElem hlt, hσ], hkey⟩

end Sys2Proof.Machine
end

