-- ==== Sys2Proof/Laws/Memory.lean ====
section
/-! SUPPORT. The laws of the slot buffers: every operation keeps the canonical form, and what a read gives after a
write. -/

namespace Sys2Proof.Machine

/-! ### The canonical form -/

/-- A new buffer lists nothing. -/
theorem Memory.wf_nil : Memory.wf [] := List.Pairwise.nil

/-- The offsets of a buffer after a write are the written one and those listed before. -/
theorem Memory.mem_write {m : Memory} {a : Nat} {v : Byte} {c : Host.Cell} (h : c ∈ Memory.write m a v) :
    c.1 = a ∨ c ∈ m := by
  induction m with
  | nil => simp_all [Memory.write]
  | cons x rest ih =>
    obtain ⟨k, w⟩ := x
    simp only [Memory.write] at h
    split at h
    · rcases List.mem_cons.1 h with rfl | h
      · exact .inl rfl
      · exact .inr h
    · split at h
      · rcases List.mem_cons.1 h with rfl | h
        · exact .inl rfl
        · exact .inr (List.mem_cons_of_mem _ h)
      · rcases List.mem_cons.1 h with rfl | h
        · exact .inr List.mem_cons_self
        · exact (ih h).imp id (List.mem_cons_of_mem _)

/-- A write of one byte keeps the canonical form. -/
theorem Memory.wf_write {m : Memory} (h : Memory.wf m) (a : Nat) (v : Byte) : Memory.wf (Memory.write m a v) := by
  induction m with
  | nil => exact List.pairwise_singleton ..
  | cons x rest ih =>
    obtain ⟨k, w⟩ := x
    obtain ⟨hk, hrest⟩ := List.pairwise_cons.1 h
    simp only [Memory.write]
    split
    · refine List.pairwise_cons.2 ⟨fun y hy => ?_, h⟩
      rcases List.mem_cons.1 hy with rfl | hy
      · assumption
      · have := hk y hy; simp only at this ⊢; omega
    · split
      · next heq => subst heq; exact List.pairwise_cons.2 ⟨hk, hrest⟩
      · refine List.pairwise_cons.2 ⟨fun y hy => ?_, ih hrest⟩
        rcases Memory.mem_write hy with hy | hy
        · simp only; omega
        · exact hk y hy

/-- A write of several bytes keeps the canonical form. -/
theorem Memory.wf_writeBytes {m : Memory} (h : Memory.wf m) (off : Nat) (bytes : List Byte) :
    Memory.wf (Memory.writeBytes m off bytes) := by
  induction bytes generalizing off with
  | nil => exact h
  | cons b bs ih => exact Memory.wf_write (ih (off + 1)) off b

/-- MemWrite keeps the canonical form of a session's buffer. -/
theorem memWrite_wf {σ τ : Session} {off : Nat} {bytes : List Byte} (h : Memory.wf σ.buf)
    (hw : memWrite σ off bytes = some τ) : Memory.wf τ.buf := by
  unfold memWrite at hw
  split at hw
  · obtain rfl := Option.some.inj hw
    exact Memory.wf_writeBytes h off bytes
  · cases hw

/-- The reset table lists no byte. -/
theorem reset_slots_empty (cfg : Config) (i : Nat) : slotAt (State.resetWith cfg) i = none := by
  simp only [slotAt, State.resetWith, List.getD_eq_getElem?_getD, List.getElem?_replicate]
  split <;> rfl

/-! ### Reads after writes -/

/-- No byte below the first listed offset is written. -/
theorem Memory.read_eq_none_of_lt {m : Memory} {a : Nat} (h : ∀ c ∈ m, a < c.1) : Memory.read m a = none := by
  induction m with
  | nil => rfl
  | cons x rest ih =>
    obtain ⟨k, w⟩ := x
    have hk : a < k := h _ List.mem_cons_self
    rw [Memory.read, if_neg (by omega)]
    exact ih fun c hc => h c (List.mem_cons_of_mem _ hc)

/-- A read after a write of one byte: the byte at its offset, the old value everywhere else. -/
theorem Memory.read_write {m : Memory} (h : Memory.wf m) (a b : Nat) (v : Byte) :
    Memory.read (Memory.write m a v) b = if a = b then some v else Memory.read m b := by
  induction m with
  | nil => simp [Memory.write, Memory.read]
  | cons x rest ih =>
    obtain ⟨k, w⟩ := x
    obtain ⟨hk, hrest⟩ := List.pairwise_cons.1 h
    simp only [Memory.write]
    split
    · simp [Memory.read]
    · split
      · next heq =>
        subst heq
        by_cases hab : a = b <;> simp [Memory.read, hab]
      · next hlt hne =>
        rw [Memory.read, ih hrest, Memory.read]
        by_cases hkb : k = b
        · subst hkb; simp [hne]
        · simp [hkb]

/-- A read after a write of several bytes. -/
theorem Memory.read_writeBytes {m : Memory} (h : Memory.wf m) (off : Nat) (bytes : List Byte) (b : Nat) :
    Memory.read (Memory.writeBytes m off bytes) b =
      if off ≤ b ∧ b < off + bytes.length then bytes[b - off]? else Memory.read m b := by
  induction bytes generalizing off with
  | nil =>
    rw [if_neg (by simp only [List.length_nil]; omega)]
    rfl
  | cons x xs ih =>
    rw [Memory.writeBytes, Memory.read_write (Memory.wf_writeBytes h _ _), ih]
    by_cases hb : off = b
    · subst hb; simp
    · rw [if_neg hb]
      by_cases hlo : off + 1 ≤ b ∧ b < off + 1 + xs.length
      · rw [if_pos hlo, if_pos (by simp only [List.length_cons]; omega)]
        obtain ⟨k, hk⟩ : ∃ k, b - off = k + 1 := ⟨b - off - 1, by omega⟩
        rw [hk, List.getElem?_cons_succ, show b - (off + 1) = k by omega]
      · rw [if_neg hlo, if_neg (by simp only [List.length_cons]; omega)]

/-- A read of several bytes is what each byte holds. -/
theorem Memory.readBytes_eq_some_iff (m : Memory) (off n : Nat) (bs : List Byte) :
    Memory.readBytes m off n = some bs ↔ bs.length = n ∧ ∀ k, k < n → Memory.read m (off + k) = bs[k]? := by
  induction n generalizing off bs with
  | zero => cases bs <;> simp [Memory.readBytes]
  | succ n ih =>
    rw [Memory.readBytes]
    constructor
    · intro h
      split at h
      · next b bs' hb hbs' =>
        obtain rfl := Option.some.inj h
        obtain ⟨hlen, hk⟩ := (ih _ _).1 hbs'
        refine ⟨by simp [hlen], fun k hkn => ?_⟩
        cases k with
        | zero => simpa using hb
        | succ k => rw [List.getElem?_cons_succ, ← hk k (by omega), show off + (k + 1) = off + 1 + k by omega]
      · cases h
    · rintro ⟨hlen, hk⟩
      cases bs with
      | nil => simp at hlen
      | cons b bs' =>
        have h0 := hk 0 (by omega)
        have hrest : Memory.readBytes m (off + 1) n = some bs' := by
          refine (ih _ _).2 ⟨by simpa using hlen, fun k hkn => ?_⟩
          have := hk (k + 1) (by omega)
          rwa [List.getElem?_cons_succ, show off + (k + 1) = off + 1 + k by omega] at this
        simp only [Nat.add_zero, List.getElem?_cons_zero] at h0
        rw [h0, hrest]

/-- A read of the bytes just written gives them back. -/
theorem Memory.readBytes_writeBytes {m : Memory} (h : Memory.wf m) (off : Nat) (bytes : List Byte) :
    Memory.readBytes (Memory.writeBytes m off bytes) off bytes.length = some bytes := by
  rw [Memory.readBytes_eq_some_iff]
  refine ⟨rfl, fun k hk => ?_⟩
  rw [Memory.read_writeBytes h, if_pos (by omega), Nat.add_sub_cancel_left]

end Sys2Proof.Machine
end

