-- ==== Sys2Proof/Laws/Ops.lean ====
section
/-! SUPPORT. One lemma for each shared operation that says once everything it can do: transmission, abort, end, the
sweep and the envelope. -/

namespace Sys2Proof.Machine

/-! ### Transmission -/

/-- What one tx does: one TX item with its answer, and the adapter's two fields. -/
theorem tx_spec (f : Frame) (s : State) :
    (tx f s).2 = { s with
      trace := s.trace ++ [.tx f (tx f s).1], answers := (tx f s).2.answers, draws := (tx f s).2.draws } := by
  unfold tx
  split <;> rfl

@[simp] theorem tx_slots (f : Frame) (s : State) : (tx f s).2.slots = s.slots := by rw [tx_spec]
@[simp] theorem tx_clock (f : Frame) (s : State) : (tx f s).2.clock = s.clock := by rw [tx_spec]
@[simp] theorem tx_cfg (f : Frame) (s : State) : (tx f s).2.cfg = s.cfg := by rw [tx_spec]
@[simp] theorem tx_trace (f : Frame) (s : State) : (tx f s).2.trace = s.trace ++ [.tx f (tx f s).1] := by rw [tx_spec]
@[simp] theorem tx_status (f : Frame) (s : State) : (tx f s).2.status = s.status := by rw [tx_spec]
@[simp] theorem tx_slotOut (f : Frame) (s : State) : (tx f s).2.slotOut = s.slotOut := by rw [tx_spec]
@[simp] theorem tx_inputs (f : Frame) (s : State) : (tx f s).2.inputs = s.inputs := by rw [tx_spec]

/-- The answer to a tx does not depend on the frame, the table or the trace. -/
theorem tx_answer_congr {s t : State} (f g : Frame) (ha : t.answers = s.answers) (hd : t.draws = s.draws) :
    (tx g t).1 = (tx f s).1 := by
  unfold tx
  rw [ha, hd]
  split <;> rfl

/-! ### Abort -/

/-- An abort that sends its Abort frame with reason r. -/
theorem abort_of_reason {i : Nat} {σ : Session} {ev : AbortEvent} {s : State} {r : Byte}
    (h : abortFrameReason s.cfg σ ev = some r) :
    abort i σ ev s = free i (emit (endReport i σ .aborted (causeOf ev) (some r)
      (abortTxOf (tx (cmf s.cfg σ (encAbort r σ.pgn)) s).1) none) (tx (cmf s.cfg σ (encAbort r σ.pgn)) s).2) := by
  have h' : abortFrameReason s.cfg { σ with state := .aborted, deadline := none } ev = some r := h
  simp only [abort, h']
  rfl

/-- An abort that sends nothing. -/
theorem abort_of_silent {i : Nat} {σ : Session} {ev : AbortEvent} {s : State}
    (h : abortFrameReason s.cfg σ ev = none) :
    abort i σ ev s =
      free i (emit (endReport i σ .aborted (causeOf ev) (reasonReceived ev) .none none) s) := by
  have h' : abortFrameReason s.cfg { σ with state := .aborted, deadline := none } ev = none := h
  simp only [abort, h']
  rfl

@[simp] theorem abort_slots (i : Nat) (σ : Session) (ev : AbortEvent) (s : State) :
    (abort i σ ev s).slots = s.slots.set i none := by
  cases h : abortFrameReason s.cfg σ ev with
  | none => rw [abort_of_silent h]; rfl
  | some r => rw [abort_of_reason h]; simp

@[simp] theorem abort_clock (i : Nat) (σ : Session) (ev : AbortEvent) (s : State) :
    (abort i σ ev s).clock = s.clock := by
  cases h : abortFrameReason s.cfg σ ev with
  | none => rw [abort_of_silent h]; rfl
  | some r => rw [abort_of_reason h]; simp

@[simp] theorem abort_cfg (i : Nat) (σ : Session) (ev : AbortEvent) (s : State) :
    (abort i σ ev s).cfg = s.cfg := by
  cases h : abortFrameReason s.cfg σ ev with
  | none => rw [abort_of_silent h]; rfl
  | some r => rw [abort_of_reason h]; simp

@[simp] theorem abort_status (i : Nat) (σ : Session) (ev : AbortEvent) (s : State) :
    (abort i σ ev s).status = s.status := by
  cases h : abortFrameReason s.cfg σ ev with
  | none => rw [abort_of_silent h]; rfl
  | some r => rw [abort_of_reason h]; simp

@[simp] theorem abort_slotOut (i : Nat) (σ : Session) (ev : AbortEvent) (s : State) :
    (abort i σ ev s).slotOut = s.slotOut := by
  cases h : abortFrameReason s.cfg σ ev with
  | none => rw [abort_of_silent h]; rfl
  | some r => rw [abort_of_reason h]; simp

@[simp] theorem abort_inputs (i : Nat) (σ : Session) (ev : AbortEvent) (s : State) :
    (abort i σ ev s).inputs = s.inputs := by
  cases h : abortFrameReason s.cfg σ ev with
  | none => rw [abort_of_silent h]; rfl
  | some r => rw [abort_of_reason h]; simp

/-- The trace of an abort: at most one Abort frame, then one END item. -/
theorem abort_trace (i : Nat) (σ : Session) (ev : AbortEvent) (s : State) :
    (abort i σ ev s).trace = s.trace ++
      match abortFrameReason s.cfg σ ev with
      | some r => [.tx (cmf s.cfg σ (encAbort r σ.pgn)) (tx (cmf s.cfg σ (encAbort r σ.pgn)) s).1,
          endReport i σ .aborted (causeOf ev) (some r) (abortTxOf (tx (cmf s.cfg σ (encAbort r σ.pgn)) s).1) none]
      | none => [endReport i σ .aborted (causeOf ev) (reasonReceived ev) .none none] := by
  cases h : abortFrameReason s.cfg σ ev with
  | none => rw [abort_of_silent h]; rfl
  | some r => rw [abort_of_reason h]; simp

/-- What slot j holds after an abort in slot i. -/
theorem slotAt_abort (i j : Nat) (σ : Session) (ev : AbortEvent) (s : State) :
    slotAt (abort i σ ev s) j = if j = i then none else slotAt s j := by
  rw [slotAt_congr (t := abort i σ ev s) (s := free i s) (by simp)]
  split
  · next h => subst h; exact slotAt_free_same ..
  · next h => exact slotAt_free_other h

/-! ### A session's transmission and its end -/

/-- A sent frame of a session. -/
theorem stx_of_ok {f : Frame} {s : State} (i : Nat) (σ : Session) (h : (tx f s).1 = .ok) :
    stx i σ f s = (true, (tx f s).2) := by
  cases htx : tx f s with
  | mk r s1 =>
    rw [htx] at h
    simp only [stx, htx]
    cases r <;> simp_all

/-- A frame of a session that failed. -/
theorem stx_of_failed {f : Frame} {s : State} (i : Nat) (σ : Session) (h : (tx f s).1 ≠ .ok) :
    stx i σ f s = (false, abort i σ .ioError (tx f s).2) := by
  cases htx : tx f s with
  | mk r s1 =>
    rw [htx] at h
    simp only [stx, htx]
    cases r <;> simp_all

/-- The end of a sender. -/
theorem finish_sender {i : Nat} {σ : Session} {s : State} (h : σ.role = .sender) :
    finish i σ s = .next (free i (emit (endReport i σ .done .none none .none none) s)) := by
  simp [finish, h, endItem, endReport]

/-- The end of a receiver whose bytes are all written. -/
theorem finish_receiver {i : Nat} {σ : Session} {s : State} {d : List Byte} (h : σ.role = .receiver)
    (hd : Memory.readBytes σ.buf 0 σ.totalLen = some d) :
    finish i σ s = .next (free i (emit (endReport i σ .done .none none .none (some d)) s)) := by
  simp [finish, h, memRead, hd, endItem, endReport]

/-! ### The sweep and the envelope -/

/-- The sweep's visit of a slot leaves the state as it is, or aborts the slot's session for one of two causes. -/
theorem sweepSlot_cases (s : State) (i : Nat) :
    (sweepSlot s i = s ∧ ∀ σ, slotAt s i = some σ → expired s.clock σ = false ∧ overallPassed s.cfg s.clock σ = false) ∨
      ∃ σ ev, slotAt s i = some σ ∧ sweepSlot s i = abort i σ ev s ∧
        ((ev = .timeout ∧ expired s.clock σ = true) ∨
          (ev = .overallTimeout ∧ expired s.clock σ = false ∧ overallPassed s.cfg s.clock σ = true)) := by
  unfold sweepSlot
  split
  · next h => exact .inl ⟨rfl, by simp [h]⟩
  · next σ h =>
    split
    · next he => exact .inr ⟨σ, .timeout, h, rfl, .inl ⟨rfl, he⟩⟩
    · next he =>
      split
      · next ho => exact .inr ⟨σ, .overallTimeout, h, rfl, .inr ⟨rfl, by simpa using he, ho⟩⟩
      · next ho => exact .inl ⟨rfl, by rintro τ hτ; rw [h] at hτ; obtain rfl := Option.some.inj hτ; simp_all⟩

/-- A property that every abort keeps is kept by the visits of a list of slots. -/
theorem foldl_sweepSlot_keeps {P : State → Prop}
    (h : ∀ i σ ev s, P s → slotAt s i = some σ → P (abort i σ ev s)) (is : List Nat) (s : State) (hs : P s) :
    P (is.foldl sweepSlot s) := by
  induction is generalizing s with
  | nil => exact hs
  | cons i is ih =>
    refine ih _ ?_
    obtain ⟨he, -⟩ | ⟨σ, ev, hσ, he, -⟩ := sweepSlot_cases s i
    · rwa [he]
    · rw [he]; exact h i σ ev s hs hσ

/-- A property that every abort keeps, and that the new NOW and the empty output keep, is kept by the envelope. -/
theorem beginCommand_keeps {P : State → Prop}
    (h : ∀ i σ ev s, P s → slotAt s i = some σ → P (abort i σ ev s)) (now : Millis) (s : State)
    (hs : P { s with clock := max s.clock now, trace := [], status := none, slotOut := none }) :
    P (beginCommand now s) :=
  foldl_sweepSlot_keeps h _ _ hs

@[simp] theorem beginCommand_clock (now : Millis) (s : State) : (beginCommand now s).clock = max s.clock now :=
  beginCommand_keeps (P := fun t => t.clock = max s.clock now) (fun i σ ev t ht _ => by simp [ht]) now s rfl

@[simp] theorem beginCommand_cfg (now : Millis) (s : State) : (beginCommand now s).cfg = s.cfg :=
  beginCommand_keeps (P := fun t => t.cfg = s.cfg) (fun i σ ev t ht _ => by simp [ht]) now s rfl

@[simp] theorem beginCommand_inputs (now : Millis) (s : State) : (beginCommand now s).inputs = s.inputs :=
  beginCommand_keeps (P := fun t => t.inputs = s.inputs) (fun i σ ev t ht _ => by simp [ht]) now s rfl

@[simp] theorem beginCommand_status (now : Millis) (s : State) : (beginCommand now s).status = none :=
  beginCommand_keeps (P := fun t => t.status = none) (fun i σ ev t ht _ => by simp [ht]) now s rfl

@[simp] theorem beginCommand_slotOut (now : Millis) (s : State) : (beginCommand now s).slotOut = none :=
  beginCommand_keeps (P := fun t => t.slotOut = none) (fun i σ ev t ht _ => by simp [ht]) now s rfl

@[simp] theorem beginCommand_length (now : Millis) (s : State) :
    (beginCommand now s).slots.length = s.slots.length :=
  beginCommand_keeps (P := fun t => t.slots.length = s.slots.length)
    (fun i σ ev t ht _ => by simpa using ht) now s rfl

/-- A slot that is valid after the envelope was valid before it, with the same session. -/
theorem slotAt_of_beginCommand {now : Millis} {s : State} {i : Nat} {σ : Session}
    (h : slotAt (beginCommand now s) i = some σ) : slotAt s i = some σ :=
  beginCommand_keeps (P := fun t => slotAt t i = some σ → slotAt s i = some σ)
    (fun j ρ ev t ht _ hab => ht (by
      rw [slotAt_abort] at hab
      split at hab
      · cases hab
      · exact hab)) now s id h

/-! ### The valid sessions -/

/-- A reset table has no buffer, so each is in its canonical form. -/
theorem reset_buffersCanonical (cfg : Config) : buffersCanonical (State.resetWith cfg) := by
  intro σ hσ
  simp only [validSessions, List.mem_filterMap, id_eq, exists_eq_right, State.resetWith] at hσ
  cases List.eq_of_mem_replicate hσ

theorem mem_validSessions_iff (s : State) (σ : Session) :
    σ ∈ validSessions s ↔ ∃ i, slotAt s i = some σ := by
  simp only [validSessions, List.mem_filterMap, id_eq, exists_eq_right, slotAt_eq_some_iff]
  exact List.mem_iff_getElem?

/-- After a slot is set, each valid session is the one put there or one that was valid before. -/
theorem mem_validSessions_setSlot {s : State} {i : Nat} {v : Option Session} {σ : Session}
    (h : σ ∈ validSessions (setSlot i v s)) : v = some σ ∨ σ ∈ validSessions s := by
  obtain ⟨j, hj⟩ := (mem_validSessions_iff _ _).1 h
  rw [slotAt_setSlot] at hj
  split at hj
  · exact .inl hj
  · exact .inr ((mem_validSessions_iff _ _).2 ⟨j, hj⟩)

/-- Only an abort, a finish and a new session change which sessions are valid: an abort takes one away. -/
theorem mem_validSessions_abort {s : State} {i : Nat} {σ τ : Session} {ev : AbortEvent}
    (h : τ ∈ validSessions (abort i σ ev s)) : τ ∈ validSessions s := by
  obtain ⟨j, hj⟩ := (mem_validSessions_iff _ _).1 h
  rw [slotAt_abort] at hj
  split at hj
  · cases hj
  · exact (mem_validSessions_iff _ _).2 ⟨j, hj⟩

end Sys2Proof.Machine
end

