-- ==== Sys2Proof/Laws/Transitions.lean ====
section
/-! SUPPORT. What one transition of a session can do, said once for the service of a POLL and for a received DT, so that a
fact about all of them needs no unfolding. -/

namespace Sys2Proof.Machine

/-! ### The service of a POLL -/

/-- What one visit of a POLL can do at slot i: nothing, or one frame of the slot's sender followed by its abort, its
advance or its end. -/
inductive Serviced (i : Nat) (s : State) : State → Prop where
  /-- No frame: an empty slot, a receiver, a sender that waits for a CTS or for its pacing time. -/
  | idle : Serviced i s s
  /-- The frame failed. -/
  | failed (σ : Session) (f : Frame) (hσ : slotAt s i = some σ) (hrole : σ.role = .sender) (hr : (tx f s).1 ≠ .ok) :
    Serviced i s (abort i σ .ioError (tx f s).2)
  /-- The frame was sent and the session goes on. -/
  | advanced (σ τ : Session) (f : Frame) (hσ : slotAt s i = some σ) (hrole : σ.role = .sender)
    (hr : (tx f s).1 = .ok) (hsame : sameTransfer σ τ) (hbuf : τ.buf = σ.buf) :
    Serviced i s (setSlot i (some τ) (tx f s).2)
  /-- The frame was the session's last. -/
  | finished (σ : Session) (f : Frame) (hσ : slotAt s i = some σ) (hrole : σ.role = .sender)
    (hr : (tx f s).1 = .ok) :
    Serviced i s (free i (emit (endReport i σ .done .none none .none none) (tx f s).2))

/-- The step after a sent DT changes none of the fields that allocation fixed. -/
theorem sameTransfer_afterDt (cfg : Config) (clock : Millis) (σ : Session) :
    sameTransfer σ (afterDt cfg clock σ) ∧ (afterDt cfg clock σ).buf = σ.buf := by
  unfold afterDt
  dsimp only
  split
  · exact ⟨⟨rfl, rfl, rfl, rfl, rfl, rfl, rfl, rfl, rfl⟩, rfl⟩
  · split <;> exact ⟨⟨rfl, rfl, rfl, rfl, rfl, rfl, rfl, rfl, rfl⟩, rfl⟩

/-- Every visit of a POLL that completes is one of these. -/
theorem serviceSlot_serviced {i : Nat} {s t : State} (h : serviceSlot i s = .next t) : Serviced i s t := by
  unfold serviceSlot at h
  split at h
  · cases h; exact .idle
  next σ hσ =>
  split at h
  · next hrole =>
    unfold serviceSender at h
    split at h
    · unfold serviceSending at h
      split at h
      · cases h
      next d hd =>
      by_cases hr : (tx (dtf s.cfg σ d) s).1 = .ok
      · rw [stx_of_ok i σ hr] at h
        cases h
        obtain ⟨hsame, hbuf⟩ := sameTransfer_afterDt (tx (dtf s.cfg σ d) s).2.cfg (tx (dtf s.cfg σ d) s).2.clock σ
        exact .advanced σ _ _ hσ hrole hr hsame hbuf
      · rw [stx_of_failed i σ hr] at h
        cases h
        exact .failed σ _ hσ hrole hr
    · unfold serviceAwaitingEom at h
      by_cases hr : (tx (cmf s.cfg σ (encEomAck σ.totalLen σ.numPackets σ.pgn)) s).1 = .ok
      · rw [stx_of_ok i σ hr] at h
        dsimp only at h
        rw [finish_sender hrole] at h
        cases h
        exact .finished σ _ hσ hrole hr
      · rw [stx_of_failed i σ hr] at h
        cases h
        exact .failed σ _ hσ hrole hr
    · cases h; exact .idle
    · unfold serviceBroadcast at h
      split at h
      · cases h
      split at h
      · cases h; exact .idle
      unfold sendBamDt at h
      split at h
      · cases h
      next d hd =>
      by_cases hr : (tx (dtf s.cfg σ d) s).1 = .ok
      · rw [stx_of_ok i σ hr] at h
        dsimp only at h
        split at h
        · rw [finish_sender (by simpa using hrole)] at h
          cases h
          exact .finished σ _ hσ hrole hr
        · cases h
          exact .advanced σ _ _ hσ hrole hr ⟨rfl, rfl, rfl, rfl, rfl, rfl, rfl, rfl, rfl⟩ rfl
      · rw [stx_of_failed i σ hr] at h
        cases h
        exact .failed σ _ hσ hrole hr
    · cases h
  · cases h; exact .idle

/-- A property that every visit keeps is kept by the visits of a list of slots, and the POLL ends with ST_OK. -/
theorem pollSlots_keeps {P : State → Prop} (hP : ∀ i s t, P s → Serviced i s t → P t) {is : List Nat} {s t : State}
    (h : pollSlots is s = .next t) (hs : P s) : ∃ u, P u ∧ t = { u with status := some .ok } := by
  induction is generalizing s with
  | nil =>
    cases h
    exact ⟨s, hs, rfl⟩
  | cons i is ih =>
    rw [pollSlots] at h
    split at h
    · next s1 h1 => exact ih h (hP i s s1 hs (serviceSlot_serviced h1))
    · cases h
    · cases h

/-! ### A received DT -/

/-- A segment that is not the next one is rejected and changes nothing. -/
theorem reasm_of_other {σ : Session} {seq : Nat} (h : seq ≠ σ.nextSeq) (p : List Byte) :
    reasm σ seq p = some (.reject, σ) := by
  rw [reasm, if_neg h]

/-- An accepted segment changes next_seq and the buffer only. -/
theorem reasm_accepted {σ τ : Session} {seq : Nat} {p : List Byte} {r : ReasmResult} (hr : r ≠ .reject)
    (h : reasm σ seq p = some (r, τ)) :
    seq = σ.nextSeq ∧ τ = { σ with
      nextSeq := seq + 1, buf := Memory.writeBytes σ.buf (segOff seq) (p.take (segLen σ.totalLen seq)) } ∧
      (r = .complete ↔ seq + 1 > σ.numPackets) := by
  unfold reasm at h
  split at h
  · next hseq =>
    unfold memWrite at h
    split at h
    · next ρ hw =>
      split at hw
      · obtain rfl := Option.some.inj hw
        simp only [Option.some.injEq, Prod.mk.injEq] at h
        obtain ⟨h1, rfl⟩ := h
        refine ⟨hseq, rfl, ?_⟩
        split at h1 <;> subst h1 <;> simp_all
      · cases hw
    · cases h
  · simp only [Option.some.injEq, Prod.mk.injEq] at h
    exact absurd h.1.symm hr

end Sys2Proof.Machine
end

