-- ==== Sys2Proof/Laws/Ledger.lean ====
section
/-! SUPPORT. The ledger of sessions and END items: a relation between two states that every operation but the start of a
session keeps, with its laws, so that a fact about ends needs no unfolding. -/

namespace Sys2Proof.Machine

/-! ### END items of a trace -/

theorem endsOf_append (a b : List TraceItem) : endsOf (a ++ b) = endsOf a ++ endsOf b := by
  induction a with
  | nil => rfl
  | cons x xs ih => cases x <;> simp [endsOf, ih]

theorem endsAt_append (j : Nat) (a b : List TraceItem) : endsAt j (a ++ b) = endsAt j a ++ endsAt j b := by
  rw [endsAt, endsOf_append, List.filter_append]
  rfl

@[simp] theorem endsAt_nil (j : Nat) : endsAt j [] = [] := rfl

@[simp] theorem endsAt_tx (j : Nat) (f : Frame) (r : TxResult) : endsAt j [.tx f r] = [] := rfl

/-- The END item of slot i is one of slot i's, and of no other slot's. -/
theorem endsAt_ended (j : Nat) (e : EndItem) : endsAt j [.ended e] = if j = e.slot then [e] else [] := by
  by_cases h : j = e.slot <;> simp [endsAt, endsOf, h, Ne.symm]

/-! ### The number of valid sessions -/

/-- A list of slots with slot i replaced: what it holds is counted out, what is put there counted in. -/
theorem length_filterMap_set (l : List (Option Session)) (i : Nat) (v : Option Session) (h : i < l.length) :
    ((l.set i v).filterMap id).length + (l.getD i none).toList.length
      = (l.filterMap id).length + v.toList.length := by
  induction l generalizing i with
  | nil => simp at h
  | cons x xs ih =>
    cases i with
    | zero => cases x <;> cases v <;> simp
    | succ i =>
      have := ih i (by simpa using h)
      cases x <;> simp at this ⊢ <;> omega

theorem validSessions_setSlot {s : State} {i : Nat} (v : Option Session) (h : i < s.slots.length) :
    (validSessions (setSlot i v s)).length + (slotAt s i).toList.length
      = (validSessions s).length + v.toList.length :=
  length_filterMap_set s.slots i v h

/-- The number of valid sessions depends on the slot array alone. -/
theorem validSessions_congr {s t : State} (h : t.slots = s.slots) : validSessions t = validSessions s := by
  rw [validSessions, h, validSessions]

/-! ### The ledger -/

/-- From s to t, with these new trace items: each slot keeps its session and reports nothing, or is free afterwards and
reports what it held; and sessions before are sessions after and END items. No session is created. -/
structure Ledger (s t : State) (new : List TraceItem) : Prop where
  trace : t.trace = s.trace ++ new
  slot : ∀ j, (∃ σ τ, slotAt s j = some σ ∧ slotAt t j = some τ ∧ sameTransfer σ τ ∧ endsAt j new = []) ∨
    (slotAt t j = none ∧ reportsSlot j s (endsAt j new))
  count : (validSessions t).length + (endsOf new).length = (validSessions s).length

/-- reportsSlot depends on what the slot holds alone. -/
theorem reportsSlot_congr {s t : State} {j : Nat} (h : slotAt t j = slotAt s j) (ends : List EndItem) :
    reportsSlot j t ends = reportsSlot j s ends := by
  rw [reportsSlot, reportsSlot, h]

/-- A free slot reports nothing. -/
theorem reportsSlot_none {s : State} {j : Nat} (h : slotAt s j = none) {ends : List EndItem} :
    reportsSlot j s ends ↔ ends = [] := by
  rw [reportsSlot, h]

theorem sameTransfer_refl (σ : Session) : sameTransfer σ σ := ⟨rfl, rfl, rfl, rfl, rfl, rfl, rfl, rfl, rfl⟩

/-- A slot that keeps its transfer reports the same. -/
theorem reportsSlot_of_sameTransfer {s t : State} {j : Nat} {σ τ : Session} {ends : List EndItem}
    (hσ : slotAt s j = some σ) (hτ : slotAt t j = some τ) (h : sameTransfer σ τ) (hr : reportsSlot j t ends) :
    reportsSlot j s ends := by
  obtain ⟨h1, h2, h3, h4, -, h6, h7, -, -⟩ := h
  simp only [reportsSlot, hσ]
  simpa only [reportsSlot, hτ, h1, h2, h3, h4, h6, h7] using hr

/-- States that differ neither in the table nor, but for frames, in the trace. -/
theorem Ledger.of_slots {s t : State} {new : List TraceItem} (hs : t.slots = s.slots)
    (ht : t.trace = s.trace ++ new) (hn : endsOf new = []) : Ledger s t new where
  trace := ht
  slot j := by
    have he : endsAt j new = [] := by rw [endsAt, hn]; rfl
    rw [slotAt_congr hs, he]
    cases h : slotAt s j with
    | none => exact .inr ⟨rfl, (reportsSlot_none h).2 rfl⟩
    | some σ => exact .inl ⟨σ, σ, rfl, rfl, sameTransfer_refl σ, rfl⟩
  count := by rw [validSessions_congr hs, hn]; rfl

theorem Ledger.refl (s : State) : Ledger s s [] := .of_slots rfl (by simp) rfl

theorem Ledger.trans {s t u : State} {a b : List TraceItem} (h1 : Ledger s t a) (h2 : Ledger t u b) :
    Ledger s u (a ++ b) where
  trace := by rw [h2.trace, h1.trace, List.append_assoc]
  slot j := by
    rw [endsAt_append]
    obtain ⟨σ, τ, hσ, hτ, hst, ha⟩ | ⟨ht, ha⟩ := h1.slot j <;>
      obtain ⟨τ', ρ, hτ', hρ, htr, hb⟩ | ⟨hu, hb⟩ := h2.slot j
    · rw [hτ] at hτ'
      obtain rfl := Option.some.inj hτ'
      refine .inl ⟨σ, ρ, hσ, hρ, ?_, by rw [ha, hb]; rfl⟩
      simp only [sameTransfer] at *
      simp_all
    · refine .inr ⟨hu, ?_⟩
      rw [ha, List.nil_append]
      exact reportsSlot_of_sameTransfer hσ hτ hst hb
    · rw [ht] at hτ'; cases hτ'
    · refine .inr ⟨hu, ?_⟩
      rw [(reportsSlot_none ht).1 hb, List.append_nil]
      exact ha
  count := by
    rw [endsOf_append, List.length_append]
    have := h1.count
    have := h2.count
    omega

/-! ### What keeps the ledger -/

/-- One tx. -/
theorem Ledger.of_tx (f : Frame) (s : State) : Ledger s (tx f s).2 [.tx f (tx f s).1] :=
  .of_slots (by simp) (by simp) rfl

/-- A valid slot that is written with the same transfer. -/
theorem Ledger.of_setSlot {s : State} {i : Nat} {σ τ : Session} (hσ : slotAt s i = some σ) (h : sameTransfer σ τ) :
    Ledger s (setSlot i (some τ) s) [] where
  trace := by simp
  slot j := by
    rw [slotAt_setSlot]
    by_cases hij : i = j
    · subst hij
      exact .inl ⟨σ, τ, hσ, by simp [lt_of_slotAt hσ], h, rfl⟩
    · rw [if_neg (by rintro ⟨rfl, -⟩; exact hij rfl)]
      cases hj : slotAt s j with
      | none => exact .inr ⟨rfl, (reportsSlot_none hj).2 rfl⟩
      | some ρ => exact .inl ⟨ρ, ρ, rfl, rfl, sameTransfer_refl ρ, rfl⟩
  count := by
    have := validSessions_setSlot (some τ) (lt_of_slotAt hσ)
    rw [hσ] at this
    simpa [endsOf] using this

/-- The end of the session in a valid slot: one END item with the fields of its transfer, the slot freed. -/
theorem Ledger.of_ended {s : State} {i : Nat} {σ τ : Session} (hσ : slotAt s i = some σ) (h : sameTransfer σ τ)
    (outcome : SessState) (cause : Cause) (reason : Option Byte) (abortTx : AbortTx) (data : Option (List Byte)) :
    Ledger s (free i (emit (endReport i τ outcome cause reason abortTx data) s))
      [endReport i τ outcome cause reason abortTx data] where
  trace := by simp
  slot j := by
    obtain ⟨h1, h2, h3, h4, -, h6, h7, -, -⟩ := h
    simp only [endReport, endsAt_ended]
    by_cases hij : j = i
    · subst hij
      refine .inr ⟨slotAt_free_same .., ?_⟩
      simp only [if_true, reportsSlot, hσ]
      exact ⟨_, rfl, h3, h4, h1, h2, h6, h7⟩
    · rw [if_neg hij, slotAt_free_other hij, slotAt_emit]
      cases hj : slotAt s j with
      | none => exact .inr ⟨rfl, (reportsSlot_none hj).2 rfl⟩
      | some ρ => exact .inl ⟨ρ, ρ, rfl, rfl, sameTransfer_refl ρ, rfl⟩
  count := by
    have := validSessions_setSlot none (lt_of_slotAt hσ)
    rw [hσ] at this
    have hc : (validSessions (free i (emit (endReport i τ outcome cause reason abortTx data) s))).length
        = (validSessions (setSlot i none s)).length := rfl
    rw [hc]
    simpa [endReport, endsOf] using this

/-- The abort of a session whose transfer is that of a valid slot. -/
theorem Ledger.of_abort {s : State} {i : Nat} {σ τ : Session} (hσ : slotAt s i = some σ) (h : sameTransfer σ τ)
    (ev : AbortEvent) : ∃ new, Ledger s (abort i τ ev s) new := by
  cases hr : abortFrameReason s.cfg τ ev with
  | none => rw [abort_of_silent hr]; exact ⟨_, .of_ended hσ h ..⟩
  | some r =>
    rw [abort_of_reason hr]
    exact ⟨_, (Ledger.of_tx _ s).trans (.of_ended (by rw [slotAt_congr (tx_slots _ s)]; exact hσ) h ..)⟩

/-- A visit of the sweep. -/
theorem Ledger.of_sweepSlot (s : State) (i : Nat) : ∃ new, Ledger s (sweepSlot s i) new := by
  obtain ⟨he, -⟩ | ⟨σ, ev, hσ, he, -⟩ := sweepSlot_cases s i <;> rw [he]
  · exact ⟨_, .refl s⟩
  · exact Ledger.of_abort hσ (sameTransfer_refl σ) ev

/-- A fold of operations that each keep the ledger keeps it. -/
theorem Ledger.of_foldl {α : Type} {op : State → α → State} (h : ∀ s x, ∃ new, Ledger s (op s x) new) (xs : List α)
    (s : State) : ∃ new, Ledger s (xs.foldl op s) new := by
  induction xs generalizing s with
  | nil => exact ⟨_, .refl s⟩
  | cons x xs ih =>
    obtain ⟨a, ha⟩ := h s x
    obtain ⟨b, hb⟩ := ih (op s x)
    exact ⟨_, ha.trans hb⟩

/-- The envelope: the trace starts anew, so all of it is new. -/
theorem Ledger.of_beginCommand (now : Millis) (s : State) :
    Ledger { s with trace := [] } (beginCommand now s) (beginCommand now s).trace := by
  obtain ⟨new, h⟩ := Ledger.of_foldl Ledger.of_sweepSlot
    (slotIndices { s with clock := max s.clock now, trace := [], status := none, slotOut := none })
    { s with clock := max s.clock now, trace := [], status := none, slotOut := none }
  have ht : (beginCommand now s).trace = new := h.trace
  rw [ht]
  exact ⟨h.trace, h.slot, h.count⟩

/-- A service of a POLL. -/
theorem Ledger.of_serviced {i : Nat} {s t : State} (h : Serviced i s t) : ∃ new, Ledger s t new := by
  cases h with
  | idle => exact ⟨_, .refl s⟩
  | failed σ f hσ hrole hr =>
    obtain ⟨new, hn⟩ := Ledger.of_abort (s := (tx f s).2) (by rw [slotAt_congr (tx_slots f s)]; exact hσ)
      (sameTransfer_refl σ) .ioError
    exact ⟨_, (Ledger.of_tx f s).trans hn⟩
  | advanced σ τ f hσ hrole hr hsame hbuf =>
    exact ⟨_, (Ledger.of_tx f s).trans (.of_setSlot (by rw [slotAt_congr (tx_slots f s)]; exact hσ) hsame)⟩
  | finished σ f hσ hrole hr =>
    exact ⟨_, (Ledger.of_tx f s).trans
      (.of_ended (by rw [slotAt_congr (tx_slots f s)]; exact hσ) (sameTransfer_refl σ) ..)⟩

end Sys2Proof.Machine
end

