-- ==== Sys2Proof/Laws/PerInstr.lean ====
section
/-! SUPPORT. The facts stated of each instruction as syntax. -/

namespace Sys2Proof.Laws.EncodedOpcode

open Sys2Proof Sys2Proof.Machine

/-- The bits of an input word that select its row of spec/opcode_table.json: the control byte of a CM frame, the cmd_op
of a host command. -/
def opcodeOf : InputWord → Nat
  | .command c => c.op.toNat
  | .frame _ f => f.data.b0.toNat

/-- The control byte or cmd_op of an instruction's row (30_encoding.md R87, R92); for DT, whose byte 0 selects nothing,
its sequence number (30_encoding.md R88). -/
def rowOpcode : Instr → Nat
  | .cmRts _ _ _ _ _ _ => 0x10
  | .cmCts _ _ _ _ _ _ => 0x11
  | .cmEomAck _ _ _ _ _ _ => 0x13
  | .cmBam _ _ _ _ _ _ => 0x20
  | .cmAbort _ _ _ _ _ => 0xFF
  | .dt _ _ _ seq _ => seq
  | .send _ _ _ _ _ _ => 0x1
  | .cancel _ _ _ _ => 0x2
  | .rxFrame _ _ => 0x3
  | .poll _ => 0x4

/-- The encoding of a well-formed instruction carries its row's opcode. -/
def Statement (i : Instr) : Prop :=
  ∀ cfg : Config, i.wellFormed = true → opcodeOf (encode cfg i) = rowOpcode i

theorem cmRts (now : Millis) (sa da : Addr) (len np : Nat) (pgn : Pgn) : Statement (.cmRts now sa da len np pgn) :=
  fun _ _ => rfl

theorem cmCts (now : Millis) (sa da : Addr) (n nextSeq : Nat) (pgn : Pgn) :
    Statement (.cmCts now sa da n nextSeq pgn) :=
  fun _ _ => rfl

theorem cmEomAck (now : Millis) (sa da : Addr) (len np : Nat) (pgn : Pgn) :
    Statement (.cmEomAck now sa da len np pgn) :=
  fun _ _ => rfl

theorem cmBam (now : Millis) (sa da : Addr) (len np : Nat) (pgn : Pgn) : Statement (.cmBam now sa da len np pgn) :=
  fun _ _ => rfl

theorem cmAbort (now : Millis) (sa da : Addr) (reason : Byte) (pgn : Pgn) :
    Statement (.cmAbort now sa da reason pgn) :=
  fun _ _ => rfl

theorem dt (now : Millis) (sa da : Addr) (seq : Nat) (p : List Byte) : Statement (.dt now sa da seq p) := by
  intro cfg h
  simp only [Instr.wellFormed, Bool.and_eq_true, decide_eq_true_eq] at h
  simp [opcodeOf, rowOpcode, encode, dtFrame, dtBytes, byte0, Nat.mod_eq_of_lt h.1]

theorem send (now : Millis) (src dst : Addr) (prio : BitVec 3) (pgn : Pgn) (payload : List Byte) :
    Statement (.send now src dst prio pgn payload) :=
  fun _ _ => rfl

theorem cancel (now : Millis) (src dst : Addr) (role : Role) : Statement (.cancel now src dst role) :=
  fun _ _ => rfl

theorem rxFrame (now : Millis) (f : Frame) : Statement (.rxFrame now f) :=
  fun _ _ => rfl

theorem poll (now : Millis) : Statement (.poll now) :=
  fun _ _ => rfl

end Sys2Proof.Laws.EncodedOpcode
end

