-- ==== Sys2Proof/Tests/Slice0.lean ====
section
/-! SUPPORT. The model's own tests: ill-formed terms, words written out from the spec's encodings, one step of each
instruction, and a witness for every statement that has hypotheses. -/

namespace Sys2Proof.Tests

open Sys2Proof Sys2Proof.Machine

/-! ### Well-formedness: each check refuses an ill-formed term -/

theorem test_wf_len :
    Instr.wellFormed (.cmRts 0 1 2 65535 255 0) = true ∧ Instr.wellFormed (.cmRts 0 1 2 65536 2 0) = false ∧
      Instr.wellFormed (.cmEomAck 0 1 2 65536 2 0) = false ∧ Instr.wellFormed (.cmBam 0 1 0xFF 65536 2 0) = false := by
  decide

theorem test_wf_byte :
    Instr.wellFormed (.cmRts 0 1 2 9 256 0) = false ∧ Instr.wellFormed (.cmCts 0 1 2 256 1 0) = false ∧
      Instr.wellFormed (.cmCts 0 1 2 1 256 0) = false ∧ Instr.wellFormed (.cmEomAck 0 1 2 9 256 0) = false ∧
      Instr.wellFormed (.cmBam 0 1 0xFF 9 256 0) = false ∧
      Instr.wellFormed (.dt 0 1 2 256 [0, 0, 0, 0, 0, 0, 0]) = false := by
  decide

theorem test_wf_segment :
    Instr.wellFormed (.dt 0 1 2 255 [0, 0, 0, 0, 0, 0, 0]) = true ∧
      Instr.wellFormed (.dt 0 1 2 1 [0, 0, 0, 0, 0, 0]) = false ∧
      Instr.wellFormed (.dt 0 1 2 1 [0, 0, 0, 0, 0, 0, 0, 0]) = false := by
  decide

/-! ### Decoding: words from 40_cm_codec.md R118–R123, 41_dt_codec.md R144 and 30_encoding.md R92 -/

/-- A frame from 0x80 to 0x20 at priority 7 with PGN TP.CM (30_encoding.md R82). -/
def cmWord (d : Data8) : InputWord := .frame 5 ⟨true, 0x1CEC2080, d⟩

theorem test_decode_rts :
    decode Config.default (cmWord ⟨0x10, 0x14, 0x00, 0x03, 0xFF, 0xEC, 0xFE, 0x00⟩)
      = .ok (.cmRts 5 0x80 0x20 20 3 0x00FEEC) := by decide

/-- 40_cm_codec.md R112: 1785 is F9 06. -/
theorem test_decode_rts_len_high_byte :
    decode Config.default (cmWord ⟨0x10, 0xF9, 0x06, 0xFF, 0x00, 0xEC, 0xFE, 0x00⟩)
      = .ok (.cmRts 5 0x80 0x20 1785 255 0x00FEEC) := by decide

theorem test_decode_cts :
    decode Config.default (cmWord ⟨0x11, 0x03, 0x01, 0xFF, 0xFF, 0xEC, 0xFE, 0x00⟩)
      = .ok (.cmCts 5 0x80 0x20 3 1 0x00FEEC) := by decide

theorem test_decode_eom_ack :
    decode Config.default (cmWord ⟨0x13, 0x14, 0x00, 0x03, 0xFF, 0xEC, 0xFE, 0x00⟩)
      = .ok (.cmEomAck 5 0x80 0x20 20 3 0x00FEEC) := by decide

theorem test_decode_bam :
    decode Config.default (.frame 5 ⟨true, 0x1CECFF80, ⟨0x20, 0x32, 0x00, 0x08, 0xFF, 0xEC, 0xFE, 0x00⟩⟩)
      = .ok (.cmBam 5 0x80 0xFF 50 8 0x00FEEC) := by decide

theorem test_decode_abort :
    decode Config.default (cmWord ⟨0xFF, 0x01, 0xFF, 0xFF, 0xFF, 0xEC, 0xFE, 0x00⟩)
      = .ok (.cmAbort 5 0x80 0x20 1 0x00FEEC) := by decide

theorem test_decode_malformed :
    decode Config.default (cmWord ⟨0x12, 0x14, 0x00, 0x03, 0xFF, 0xEC, 0xFE, 0x00⟩)
      = .error (.malformedCm 0x12) := by decide

theorem test_decode_dt :
    decode Config.default (.frame 5 ⟨true, 0x1CEB2080, ⟨0x03, 0x0E, 0x0F, 0x10, 0x11, 0x12, 0x13, 0xFF⟩⟩)
      = .ok (.dt 5 0x80 0x20 3 [0x0E, 0x0F, 0x10, 0x11, 0x12, 0x13, 0xFF]) := by decide

/-- 30_encoding.md R91 (d): ext = 0, or another PGN, is no TP frame. -/
theorem test_decode_not_tp :
    decode Config.default (.frame 5 ⟨false, 0x1CEC2080, ⟨0x10, 0x14, 0x00, 0x03, 0xFF, 0xEC, 0xFE, 0x00⟩⟩)
        = .error .notTp ∧
      decode Config.default (.frame 5 ⟨true, 0x1CED2080, ⟨0x10, 0x14, 0x00, 0x03, 0xFF, 0xEC, 0xFE, 0x00⟩⟩)
        = .error .notTp := by decide

/-- A frame for the records below. -/
def someFrame : Frame := ⟨true, 0x1CEC2080, ⟨0x13, 0x09, 0x00, 0x02, 0xFF, 0xEC, 0xFE, 0x00⟩⟩

/-- A host command record with every operand field set. -/
def record (op : BitVec 4) : CmdWord where
  op := op
  now := 7
  src := 0x80
  dst := 0x20
  role := 1
  prio := 6
  pgn := 0x00FEEC
  payload := [1, 2, 3]
  frame := someFrame

theorem test_decode_send :
    decode Config.default (.command (record 0x1)) = .ok (.send 7 0x80 0x20 6 0x00FEEC [1, 2, 3]) := by decide

theorem test_decode_cancel :
    decode Config.default (.command (record 0x2)) = .ok (.cancel 7 0x80 0x20 .receiver) ∧
      decode Config.default (.command { record 0x2 with role := 0 }) = .ok (.cancel 7 0x80 0x20 .sender) := by decide

theorem test_decode_rx_frame :
    decode Config.default (.command (record 0x3)) = .ok (.rxFrame 7 someFrame) := by decide

theorem test_decode_poll : decode Config.default (.command (record 0x4)) = .ok (.poll 7) := by decide

theorem test_decode_reserved_command :
    decode Config.default (.command (record 0x0)) = .error (.badCommand 0) ∧
      decode Config.default (.command (record 0xF)) = .error (.badCommand 0xF) := by decide

/-- The opcode table's numbering: bit 0 is the least significant bit of data byte 0 (30_encoding.md R85). -/
theorem test_table_words :
    decodeTableWord 64 0x00FEECFF03001410 = some (.cmRts 0 0 0 20 3 0x00FEEC) ∧
      decodeTableWord 8 0x04 = some (.poll 0) ∧
      decodeTableWord 64 0xFF131211100F0E03 = some (.dt 0 0 0 3 [0x0E, 0x0F, 0x10, 0x11, 0x12, 0x13, 0xFF]) := by
  decide

/-! ### States for the step tests and the witnesses -/

/-- A state with these slots and these answers still to come. -/
def stateWith (cfg : Config) (clock : Millis) (slots : List (Option Session)) (answers : List TxResult) : State :=
  { State.resetWith cfg with slots := slots, clock := clock, answers := answers }

/-- The configuration in which senders wait for a CTS. -/
def waiting : Config := { Config.default with waitCts := true }

/-- A payload of 9 bytes, 0..8. -/
def nine : List Byte := [0, 1, 2, 3, 4, 5, 6, 7, 8]

/-- A connection-mode sender of `nine` from 0x80 to 0x20, next segment 1. -/
def sending : Session where
  role := .sender
  mode := .connection
  state := .sendingData
  src := 0x80
  dst := 0x20
  prio := 7
  pgn := 0x00FEEC
  totalLen := 9
  numPackets := 2
  nextSeq := 1
  windowEnd := 2
  deadline := none
  nextTx := none
  created := 0
  buf := Memory.writeBytes [] 0 nine

/-- The same sender, waiting for a CTS until 1250. -/
def awaiting : Session := { sending with state := .rtsSent, deadline := some 1250 }

/-- The same sender with both segments sent. -/
def ending : Session := { sending with state := .awaitingEom, nextSeq := 3 }

/-- A broadcast sender of `nine` whose next DT is due at 50. -/
def broadcasting : Session := { sending with mode := .broadcast, dst := 0xFF, nextTx := some 50 }

/-- A connection-mode receiver of 9 bytes from 0x80 at 0x20, waiting for the first segment until 1250. -/
def receiving : Session :=
  { sending with role := .receiver, state := .ctsSent, deadline := some 1250, buf := [] }

/-- The same receiver with the first segment stored, waiting until 750. -/
def half : Session :=
  { receiving with
    state := .receivingData, nextSeq := 2, deadline := some 750, buf := Memory.writeBytes [] 0 (nine.take 7) }

/-- A broadcast receiver with the first segment stored. -/
def halfBam : Session := { half with mode := .broadcast, dst := 0xFF }

/-- An empty table. -/
def empty (answers : List TxResult) : State := stateWith Config.default 0 [none, none, none, none] answers

/-- A table with one session, in slot 1. -/
def one (cfg : Config) (σ : Session) (answers : List TxResult) : State :=
  stateWith cfg 0 [none, some σ, none, none] answers

/-- The status and the trace after an instruction. -/
def result (i : Instr) (s : State) : Option (Option Status × List TraceItem) :=
  match exec i s with
  | .next t => some (t.status, t.trace)
  | _ => none

/-- What a slot holds after an instruction. -/
def slotAfter (i : Instr) (s : State) (k : Nat) : Option Session :=
  match exec i s with
  | .next t => slotAt t k
  | _ => none

/-! ### One step of each instruction -/

/-- 42_session_fsm.md R167: the RTS goes out; R168: the slot is in SENDING_DATA. -/
theorem test_send_rts :
    result (.send 0 0x80 0x20 7 0x00FEEC nine) (empty [.ok])
      = some (some .ok, [.tx ⟨true, 0x1CEC2080, ⟨0x10, 0x09, 0x00, 0x02, 0xFF, 0xEC, 0xFE, 0x00⟩⟩ .ok]) ∧
    slotAfter (.send 0 0x80 0x20 7 0x00FEEC nine) (empty [.ok]) 0 = some sending := by decide

/-- 42_session_fsm.md R163: a failed BAM ends the session; its END has no Abort frame before it. -/
theorem test_send_io_error :
    result (.send 0 0x80 0xFF 7 0x00FEEC nine) (empty [.partialWrite])
      = some (some .ioError, [.tx ⟨true, 0x1CECFF80, ⟨0x20, 0x09, 0x00, 0x02, 0xFF, 0xEC, 0xFE, 0x00⟩⟩ .partialWrite,
          endReport 0 broadcasting .aborted .ioError none .none none]) := by decide

/-- 42_session_fsm.md R189: the Abort frame of a cancelled sender. -/
theorem test_cancel :
    result (.cancel 10 0x80 0x20 .sender) (one Config.default sending [.ok])
      = some (some .ok, [.tx ⟨true, 0x1CEC2080, ⟨0xFF, 0x02, 0xFF, 0xFF, 0xFF, 0xEC, 0xFE, 0x00⟩⟩ .ok,
          endReport 1 sending .aborted .cancelled (some 2) .ok none]) := by decide

/-- 43_session_table.md R238: the role is part of the key. -/
theorem test_cancel_other_role :
    result (.cancel 10 0x80 0x20 .receiver) (one Config.default sending []) = some (some .noSession, []) := by decide

/-- 42_session_fsm.md R172: one DT for each POLL. -/
theorem test_poll_dt :
    result (.poll 1) (one Config.default sending [.ok])
      = some (some .ok, [.tx ⟨true, 0x1CEB2080, ⟨0x01, 0x00, 0x01, 0x02, 0x03, 0x04, 0x05, 0x06⟩⟩ .ok]) ∧
    slotAfter (.poll 1) (one Config.default sending [.ok]) 1 = some { sending with nextSeq := 2 } := by decide

/-- 42_session_fsm.md R176: nothing goes out before next_tx. -/
theorem test_poll_pacing :
    result (.poll 49) (one Config.default broadcasting []) = some (some .ok, []) := by decide

/-- 42_session_fsm.md R177: the CTS of an accepted RTS goes back from 0x20 to 0x80. -/
theorem test_rts :
    result (.cmRts 0 0x80 0x20 9 2 0x00FEEC) (empty [.ok])
      = some (some .ok, [.tx ⟨true, 0x1CEC8020, ⟨0x11, 0x02, 0x01, 0xFF, 0xFF, 0xEC, 0xFE, 0x00⟩⟩ .ok]) ∧
    slotAfter (.cmRts 0 0x80 0x20 9 2 0x00FEEC) (empty [.ok]) 0 = some receiving := by decide

/-- 43_session_table.md R240, R248: a second RTS is BUSY, the rejection frame goes back, the session stays. -/
theorem test_rts_busy :
    result (.cmRts 0 0x80 0x20 9 2 0x00FEEC) (one Config.default receiving [.ok])
      = some (some .busy, [.tx ⟨true, 0x1CEC8020, ⟨0xFF, 0x01, 0xFF, 0xFF, 0xFF, 0xEC, 0xFE, 0x00⟩⟩ .ok]) ∧
    slotAfter (.cmRts 0 0x80 0x20 9 2 0x00FEEC) (one Config.default receiving [.ok]) 1 = some receiving := by decide

/-- 42_session_fsm.md R178: a BAM receiver sends nothing and waits T1. -/
theorem test_bam :
    result (.cmBam 0 0x80 0xFF 9 2 0x00FEEC) (empty []) = some (some .ok, []) ∧
    (slotAfter (.cmBam 0 0x80 0xFF 9 2 0x00FEEC) (empty []) 0).map (fun σ => (σ.state, σ.deadline))
      = some (.receivingData, some 750) := by decide

/-- 42_session_fsm.md R170: next_seq = 1, CTS with n = 1 and next = 1 opens a window up to 1. -/
theorem test_cts_grant :
    slotAfter (.cmCts 5 0x20 0x80 1 1 0x00FEEC) (one waiting awaiting []) 1
      = some { sending with windowEnd := 1 } := by decide

/-- 42_session_fsm.md R169: n = 0 re-arms T3. -/
theorem test_cts_hold :
    (slotAfter (.cmCts 100 0x20 0x80 0 1 0x00FEEC) (one waiting awaiting []) 1).map (·.deadline)
      = some (some 1350) := by decide

/-- 42_session_fsm.md R185: a sender that awaits the end still awaits it. -/
theorem test_eom_ack :
    result (.cmEomAck 5 0x20 0x80 9 2 0x00FEEC) (one Config.default ending []) = some (some .ignored, []) ∧
    slotAfter (.cmEomAck 5 0x20 0x80 9 2 0x00FEEC) (one Config.default ending []) 1 = some ending := by decide

/-- 42_session_fsm.md R183: no Abort frame answers a peer's Abort. -/
theorem test_peer_abort :
    result (.cmAbort 30 0x20 0x80 1 0x00FEEC) (one Config.default sending [])
      = some (some .ok, [endReport 1 sending .aborted .peerAbort (some 1) .none none]) := by decide

/-- 42_session_fsm.md R180: the last DT is answered by the EOM_ACK and delivers the 9 bytes. -/
theorem test_dt_complete :
    result (.dt 10 0x80 0x20 2 [7, 8, 0xFF, 0xFF, 0xFF, 0xFF, 0xFF]) (one Config.default half [.ok])
      = some (some .ok, [.tx ⟨true, 0x1CEC8020, ⟨0x13, 0x09, 0x00, 0x02, 0xFF, 0xEC, 0xFE, 0x00⟩⟩ .ok,
          endReport 1 half .done .none none .none (some nine)]) := by decide

/-- 42_session_fsm.md R182: a duplicate aborts. -/
theorem test_dt_duplicate :
    result (.dt 10 0x80 0x20 1 [0, 1, 2, 3, 4, 5, 6]) (one Config.default half [.ioErr])
      = some (some .sequenceError, [.tx ⟨true, 0x1CEC8020, ⟨0xFF, 0x07, 0xFF, 0xFF, 0xFF, 0xEC, 0xFE, 0x00⟩⟩ .ioErr,
          endReport 1 half .aborted .sequence (some 7) .failed none]) := by decide

/-- 43_session_table.md R236: at its deadline the session is gone before the DT is looked at. -/
theorem test_rx_frame_after_deadline :
    result (.rxFrame 1250 ⟨true, 0x1CEB2080, ⟨1, 0, 1, 2, 3, 4, 5, 6⟩⟩) (one Config.default receiving [.ok])
      = some (some .noSession, [.tx ⟨true, 0x1CEC8020, ⟨0xFF, 0x03, 0xFF, 0xFF, 0xFF, 0xEC, 0xFE, 0x00⟩⟩ .ok,
          endReport 1 receiving .aborted .timeout (some 3) .ok none]) := by decide

/-- 42_session_fsm.md R184: a malformed CM frame ends its owner. -/
theorem test_rx_frame_malformed :
    result (.rxFrame 3 ⟨true, 0x1CEC2080, ⟨0x12, 0, 0, 0, 0, 0xEC, 0xFE, 0⟩⟩) (one Config.default receiving [.ok])
      = some (some .malformedCm, [.tx ⟨true, 0x1CEC8020, ⟨0xFF, 0x06, 0xFF, 0xFF, 0xFF, 0xEC, 0xFE, 0x00⟩⟩ .ok,
          endReport 1 receiving .aborted .malformedCm (some 6) .ok none]) := by decide

/-- The word that withFetchWord places is the next one that step runs. -/
theorem test_with_fetch_word :
    step (State.reset.withFetchWord 8 0x04) = exec (.poll 0) State.reset := rfl

/-! ### Witnesses: concrete states and operands that meet the hypotheses of each statement -/

theorem inv_one_sending : Inv (one Config.default sending [.ok, .ok]) :=
  ⟨by decide, by decide, by decide, by decide⟩

theorem inv_one_awaiting : Inv (one waiting awaiting [.ok]) := ⟨by decide, by decide, by decide, by decide⟩

theorem inv_one_ending : Inv (one Config.default ending [.ok]) := ⟨by decide, by decide, by decide, by decide⟩

theorem inv_one_broadcasting : Inv (one Config.default broadcasting [.ok]) :=
  ⟨by decide, by decide, by decide, by decide⟩

theorem inv_one_receiving : Inv (one Config.default receiving [.ok]) := ⟨by decide, by decide, by decide, by decide⟩

theorem inv_one_half : Inv (one Config.default half [.ok]) := ⟨by decide, by decide, by decide, by decide⟩

theorem inv_one_halfBam : Inv (one Config.default halfBam []) := ⟨by decide, by decide, by decide, by decide⟩

/-- A sender and a receiver between the same two nodes, which own the same CM frames. -/
def both : State :=
  stateWith Config.default 0 [some sending, some { receiving with src := 0x20, dst := 0x80 }, none, none] [.ok, .ok]

theorem inv_both : Inv both := ⟨by decide, by decide, by decide, by decide⟩

/-- A full table. -/
def full (answers : List TxResult) : State :=
  stateWith { Config.default with nSessions := 1 } 0 [some { sending with src := 0x10, dst := 0x11 }] answers

theorem witness_DecodeOfEncodeIsTheInstruction :
    legalConfig Config.default = true ∧ Instr.wellFormed (.cmRts 0 1 2 65535 255 0xFFFFFF) = true ∧
      Instr.wellFormed (.dt 0 1 2 255 [0, 0, 0, 0, 0, 0, 0]) = true := by decide

theorem witness_CmdOpSelectsTheCommand :
    (record 0x1).op = 0x1 ∧ (record 0x2).op = 0x2 ∧ (record 0x3).op = 0x3 ∧ (record 0x4).op = 0x4 ∧
      ∀ op ∈ [0x0, 0x5, 0xF], (record op).op ≠ 0x1 ∧ (record op).op ≠ 0x2 ∧ (record op).op ≠ 0x3 ∧
        (record op).op ≠ 0x4 := by decide

theorem witness_FrameClassIsDecidedByExtAndPgnBits : legalConfig Config.default = true := by decide

/-- A CM frame from 0x80 to 0x20 with this control byte. -/
def cmOf (b : Byte) : Frame := ⟨true, 0x1CEC2080, ⟨b, 1, 2, 3, 4, 0xEC, 0xFE, 0x01⟩⟩

theorem witness_CmFrameDecodesByItsControlByte :
    ∀ b ∈ [0x10, 0x11, 0x13, 0x20, 0xFF, 0x00, 0x12, 0xFE], classify Config.default (cmOf b) = .cm ∧
      (0x80 : Addr).toNat = (cmOf b).id.toNat % 256 ∧ (0x20 : Addr).toNat = (cmOf b).id.toNat / 256 % 256 ∧
      (0x01FEEC : Pgn).toNat
        = (cmOf b).data.b5.toNat + 256 * (cmOf b).data.b6.toNat + 65536 * (cmOf b).data.b7.toNat ∧
      (cmOf b).data.b0 = b := by decide

theorem witness_CmCodecRoundTrip :
    (2047 < 2048 ∧ 255 < 256) ∧ decCm ⟨0x10, 1, 2, 3, 0, 4, 5, 6⟩ = .rts 513 3 0x060504 ∧
      decCm ⟨0x13, 1, 2, 3, 0, 4, 5, 6⟩ = .eomAck 513 3 0x060504 ∧
      decCm ⟨0x20, 1, 2, 3, 0xFF, 4, 5, 6⟩ = .bam 513 3 0x060504 ∧
      decCm ⟨0x11, 1, 2, 0xFF, 0xFF, 4, 5, 6⟩ = .cts 1 2 0x060504 ∧
      decCm ⟨0xFF, 1, 0xFF, 0xFF, 0xFF, 4, 5, 6⟩ = .abort 1 0x060504 := by decide

/-- Two frames of one kind that differ in all of its reserved bytes: an Abort, a CTS and an RTS. -/
theorem witness_CmDecoderIgnoresReservedBytes :
    ∀ p ∈ [((⟨0xFF, 1, 2, 3, 4, 5, 6, 7⟩ : Data8), (⟨0xFF, 1, 9, 9, 9, 5, 6, 7⟩ : Data8)),
        (⟨0x11, 1, 2, 3, 4, 5, 6, 7⟩, ⟨0x11, 1, 2, 9, 9, 5, 6, 7⟩),
        (⟨0x10, 1, 2, 3, 4, 5, 6, 7⟩, ⟨0x10, 1, 2, 3, 9, 5, 6, 7⟩)],
      p.1.b0 = p.2.b0 ∧ p.1.b1 = p.2.b1 ∧ p.1.b5 = p.2.b5 ∧ p.1.b6 = p.2.b6 ∧ p.1.b7 = p.2.b7 ∧
        (p.1.b0 ≠ 0xFF → p.1.b2 = p.2.b2) ∧ (p.1.b0 ≠ 0xFF → p.1.b0 ≠ 0x11 → p.1.b3 = p.2.b3) := by decide

/-- At the end of the live range, and one byte beyond it. -/
theorem witness_BufferReadsGiveWhatWasWritten :
    Memory.wf half.buf ∧ 7 + [0xAA, 0xBB].length ≤ half.totalLen ∧
      half.totalLen < 7 + [0xAA, 0xBB, 0xCC].length := by decide

theorem witness_SegmentsPartitionThePayload : (9 ≤ 9 ∧ 9 ≤ 1785) ∧ 9 ≤ 1785 ∧ 1785 ≤ 1785 := by decide

/-- The first and the last segment. -/
theorem witness_FragmentCarriesItsSegment :
    9 ≤ sending.totalLen ∧ sending.totalLen ≤ 1785 ∧ memRead sending 0 sending.totalLen = some nine ∧
      ∀ i ∈ [1, 2], 1 ≤ i ∧ i ≤ numPacketsOf sending.totalLen := by decide

theorem witness_ReassemblerTakesOnlyTheNextSegment :
    ∀ σ ∈ [receiving, half], 9 ≤ σ.totalLen ∧ σ.totalLen ≤ 1785 ∧ σ.numPackets = numPacketsOf σ.totalLen ∧
      Memory.wf σ.buf ∧ (nine.take 7).length = 7 ∧ 1 ≤ σ.nextSeq ∧ σ.nextSeq ≤ σ.numPackets ∧ 0 ≠ σ.nextSeq := by
  decide

theorem witness_FragmentThenReassembleGivesThePayload :
    9 ≤ nine.length ∧ nine.length ≤ 1785 ∧ 7 * (2 - 1) < nine.length ∧ nine.length ≤ 7 * 2 ∧
      sending.totalLen = nine.length ∧ memRead sending 0 nine.length = some nine ∧
      receiving.totalLen = nine.length ∧ receiving.numPackets = 2 ∧ receiving.nextSeq = 1 ∧ receiving.buf = [] := by
  decide

theorem witness_LookupFindsTheOneSessionOfAKey :
    Inv both ∧ lookup 0x20 0x80 .receiver both = some 1 ∧ lookup 0x20 0x80 .sender both = none :=
  ⟨inv_both, by decide, by decide⟩

theorem witness_OwnersAreTheMatchingSessions : Inv both ∧ owners 0x20 0x80 0x00FEEC both = [0, 1] :=
  ⟨inv_both, by decide⟩

theorem witness_TxRecordsItsFrameAndAnswer :
    (empty [.partialWrite]).answers = .partialWrite :: [] ∧ (empty []).answers = [] := by decide

theorem witness_AbortReportsAndFrees :
    1 < (one Config.default sending [.ok]).slots.length ∧ sending.mode = .connection ∧
      broadcasting.mode = .broadcast ∧
      (AbortEvent.timeout = .timeout ∧ Config.default.rsnTimeout = 3) ∧
      (AbortEvent.sequence = .sequence ∧ Config.default.rsnSequenceError = 7) ∧
      (AbortEvent.malformedCm = .malformedCm ∧ Config.default.rsnUnexpectedData = 6) ∧
      (AbortEvent.cancelled = .cancelled ∧ Config.default.rsnCancel = 2) := by decide

theorem witness_FailedTransmissionEndsTheSession :
    1 < (one Config.default sending [.ok]).slots.length ∧ (tx someFrame (one Config.default sending [.ok])).1 = .ok ∧
      (tx someFrame (one Config.default sending [.partialWrite])).1 ≠ .ok ∧
      (tx someFrame (one Config.default sending [.ioErr])).1 ≠ .ok := by decide

theorem witness_FinishReportsDoneAndFrees :
    ending.role = .sender ∧ ({ half with buf := sending.buf } : Session).role = .receiver ∧
      memRead { half with buf := sending.buf } 0 9 = some nine := by decide

/-- A deadline equal to NOW, a deadline one later, and an overall limit reached. -/
theorem witness_SweepEndsExactlyThePassedSessions :
    slotAt { one Config.default receiving [.ok] with clock := 1250 } 1 = some receiving ∧
      receiving.deadline = some 1250 ∧ (1250 ≤ 1250 ∧ ¬1250 ≤ 1249) ∧
      slotAt (one Config.default receiving [.ok]) 0 = none ∧
      (({ Config.default with tOverall := 1000 } : Config).tOverall ≠ 0 ∧ 1000 ≤ 1000 - sending.created) := by decide

theorem witness_EveryCommandSetsNowAndReturnsAStatus : ∃ t, exec (.poll 3) State.reset = .next t := ⟨_, rfl⟩

theorem witness_ReservedCommandChangesNothing :
    ∀ op ∈ [0x0, 0x5, 0xF], legalConfig (empty []).cfg = true ∧
      ({ empty [] with inputs := [.word (.command (record op))] } : State).inputs
        = [.word (.command (record op))] ∧
      (record op).op ≠ 0x1 ∧ (record op).op ≠ 0x2 ∧ (record op).op ≠ 0x3 ∧ (record op).op ≠ 0x4 := by decide

/-- With the RTS answered OK, with and without waiting for a CTS, and with it failing. -/
theorem witness_SendStartsAConnectionSession :
    9 ≤ nine.length ∧ nine.length ≤ 1785 ∧ (0x80 : Addr) ≠ 0xFF ∧ (0x20 : Addr) ≠ 0xFF ∧
      ∀ s ∈ [empty [.ok], empty [.ioErr], stateWith waiting 0 [none, none, none, none] [.ok]],
        lookup 0x80 0x20 .sender (beginCommand 0 s) = none ∧ alloc (beginCommand 0 s) = some 0 := by decide

theorem witness_SendStartsAConnectionSession_longest :
    9 ≤ (List.replicate 1785 (0 : Byte)).length ∧ (List.replicate 1785 (0 : Byte)).length ≤ 1785 := by
  rw [List.length_replicate]
  omega

theorem witness_SendStartsABroadcastSession :
    9 ≤ nine.length ∧ nine.length ≤ 1785 ∧ (0x80 : Addr) ≠ 0xFF ∧
      ∀ s ∈ [empty [.ok], empty [.ioErr]],
        lookup 0x80 0xFF .sender (beginCommand 0 s) = none ∧ alloc (beginCommand 0 s) = some 0 := by decide

/-- The bounds of the length, the global source, a busy key and a full table. -/
theorem witness_SendRefusalsCreateNothing :
    (nine.take 8).length < 9 ∧ 1785 < (List.replicate 1786 (0 : Byte)).length ∧ (0xFF : Addr) = 0xFF ∧
      lookup 0x80 0x20 .sender (beginCommand 0 (one Config.default sending [])) ≠ none ∧
      lookup 0x80 0x20 .sender (beginCommand 0 (full [])) = none ∧ alloc (beginCommand 0 (full [])) = none := by
  exact ⟨by decide, by rw [List.length_replicate]; omega, rfl, by decide, by decide, by decide⟩

theorem witness_CancelEndsTheNamedSession :
    lookup 0x80 0x20 .sender (beginCommand 0 (one Config.default sending [.ok])) = some 1 ∧
      slotAt (beginCommand 0 (one Config.default sending [.ok])) 1 = some sending ∧
      lookup 0x80 0xFF .sender (beginCommand 0 (one Config.default broadcasting [])) = some 1 ∧
      slotAt (beginCommand 0 (one Config.default broadcasting [])) 1 = some broadcasting ∧
      lookup 0x80 0x20 .receiver (beginCommand 0 (one Config.default sending [])) = none := by decide

/-- The two bounds of the length, with the CTS answered OK and failing. -/
theorem witness_RtsStartsAReceiver :
    (0x80 : Addr) ≠ 0xFF ∧ (0x20 : Addr) ≠ 0xFF ∧ (2 = numPacketsOf 9 ∧ 9 ≤ Config.default.maxRxLen) ∧
      (255 = numPacketsOf 1785 ∧ 1785 ≤ Config.default.maxRxLen) ∧
      ∀ s ∈ [empty [.ok], empty [.ioErr]],
        lookup 0x80 0x20 .receiver (beginCommand 0 s) = none ∧ alloc (beginCommand 0 s) = some 0 := by decide

/-- A busy key; a length over MAX_RX_LEN; a full table. -/
theorem witness_RtsRefusalsLeaveTheTable :
    (8 < 9 ∧ 1785 < 1786 ∧ 3 ≠ numPacketsOf 9) ∧ 2 = numPacketsOf 9 ∧
      lookup 0x80 0x20 .receiver (beginCommand 0 (one Config.default receiving [.ok])) ≠ none ∧
      lookup 0x80 0x20 .receiver (beginCommand 0 (stateWith { Config.default with maxRxLen := 9 } 0 [none] [.ok]))
        = none ∧ ({ Config.default with maxRxLen := 9 } : Config).maxRxLen < 10 ∧
      lookup 0x80 0x20 .receiver (beginCommand 0 (full [.ok])) = none ∧ alloc (beginCommand 0 (full [.ok])) = none := by
  decide

theorem witness_BamStartsAReceiver :
    (0x80 : Addr) ≠ 0xFF ∧ (2 = numPacketsOf 9 ∧ 9 ≤ Config.default.maxRxLen) ∧
      (255 = numPacketsOf 1785 ∧ 1785 ≤ Config.default.maxRxLen) ∧
      lookup 0x80 0xFF .receiver (beginCommand 0 (empty [])) = none ∧ alloc (beginCommand 0 (empty [])) = some 0 := by
  decide

theorem witness_BamRefusalsAreSilent :
    (8 < 9 ∧ 1785 < 1786 ∧ 3 ≠ numPacketsOf 9 ∧ (0x20 : Addr) ≠ 0xFF) ∧ 2 = numPacketsOf 9 ∧
      lookup 0x80 0xFF .receiver (beginCommand 0 (one Config.default halfBam [])) ≠ none ∧
      lookup 0x80 0xFF .receiver (beginCommand 0 (full [])) = none ∧ alloc (beginCommand 0 (full [])) = none := by
  decide

/-- Hold (n = 0), grant (next = 1) and mismatch (next = 2) all start from this state. -/
theorem witness_CtsAtTheWaitingSender :
    Inv (one waiting awaiting [.ok]) ∧ (0x20 : Addr) ≠ 0xFF ∧
      slotAt (beginCommand 5 (one waiting awaiting [.ok])) 1 = some awaiting ∧ awaiting.role = .sender ∧
      awaiting.mode = .connection ∧ awaiting.state = .rtsSent ∧ awaiting.src = 0x80 ∧ awaiting.dst = 0x20 ∧
      awaiting.pgn = 0x00FEEC ∧ 1 = awaiting.nextSeq ∧ 2 ≠ awaiting.nextSeq :=
  ⟨inv_one_awaiting, by decide, by decide, rfl, rfl, rfl, rfl, rfl, rfl, rfl, by decide⟩

/-- The only owner of the CTS is a sender in SENDING_DATA. -/
theorem witness_CtsElsewhereIsIgnored :
    owners 0x20 0x80 0x00FEEC (beginCommand 0 (one Config.default sending [])) = [1] ∧
      slotAt (beginCommand 0 (one Config.default sending [])) 1 = some sending ∧ sending.state ≠ .rtsSent := by decide

theorem witness_PeerAbortEndsItsOwners :
    (0x20 : Addr) ≠ 0xFF ∧ owners 0x20 0x80 0x00FEEC (beginCommand 0 both) = [0, 1] ∧
      owners 0x20 0x80 0x00FEED (beginCommand 0 both) = [] := by decide

theorem witness_MalformedFrameEndsItsOwners :
    classify (beginCommand 0 (one Config.default receiving [.ok])).cfg (cmOf 0x12) = .cm ∧
      decCm (cmOf 0x12).data = .malformed 0x12 0x01FEEC ∧ sourceAddr (cmOf 0x12).id ≠ 0xFF := by decide

theorem witness_DtStoresTheNextSegment :
    Inv (one Config.default receiving [.ok]) ∧ (0x80 : Addr) ≠ 0xFF ∧ (nine.take 7).length = 7 ∧
      slotAt (beginCommand 0 (one Config.default receiving [.ok])) 1 = some receiving ∧ receiving.role = .receiver ∧
      receiving.src = 0x80 ∧ receiving.dst = 0x20 ∧ receiving.nextSeq < receiving.numPackets :=
  ⟨inv_one_receiving, by decide, by decide, by decide, rfl, rfl, rfl, by decide⟩

theorem witness_LastDtDeliversTheMessage :
    Inv (one Config.default half [.ok]) ∧ (0x80 : Addr) ≠ 0xFF ∧ (nine.take 7).length = 7 ∧
      slotAt (beginCommand 0 (one Config.default half [.ok])) 1 = some half ∧ half.role = .receiver ∧
      half.src = 0x80 ∧ half.dst = 0x20 ∧ half.nextSeq = half.numPackets ∧ half.mode = .connection ∧
      memRead half 0 (segOff half.nextSeq) = some (nine.take 7) :=
  ⟨inv_one_half, by decide, by decide, by decide, rfl, rfl, rfl, rfl, rfl, by decide⟩

theorem witness_LastDtDeliversTheMessage_broadcast :
    Inv (one Config.default halfBam []) ∧
      slotAt (beginCommand 0 (one Config.default halfBam [])) 1 = some halfBam ∧ halfBam.role = .receiver ∧
      halfBam.src = 0x80 ∧ halfBam.dst = 0xFF ∧ halfBam.nextSeq = halfBam.numPackets ∧ halfBam.mode = .broadcast ∧
      memRead halfBam 0 (segOff halfBam.nextSeq) = some (nine.take 7) :=
  ⟨inv_one_halfBam, by decide, rfl, rfl, rfl, rfl, rfl, by decide⟩

/-- Sequence numbers 0 and 1 (a duplicate) at a receiver that expects 2. -/
theorem witness_WrongDtAbortsTheReceiver :
    Inv (one Config.default half [.ok]) ∧ (0x80 : Addr) ≠ 0xFF ∧
      slotAt (beginCommand 0 (one Config.default half [.ok])) 1 = some half ∧ half.role = .receiver ∧
      half.src = 0x80 ∧ half.dst = 0x20 ∧ 0 ≠ half.nextSeq ∧ 1 ≠ half.nextSeq :=
  ⟨inv_one_half, by decide, by decide, rfl, rfl, rfl, by decide, by decide⟩

theorem witness_DtWithoutAReceiver :
    (0xFF : Addr) = 0xFF ∧ (0x80 : Addr) ≠ 0xFF ∧
      lookup 0x80 0x20 .receiver (beginCommand 0 (one Config.default sending [])) = none := by decide

theorem witness_RxFrameIsTheMeaningOfItsFrame :
    decode (one Config.default sending [.ok, .ok]).cfg (.frame 0 someFrame) = .ok (.cmEomAck 0 0x80 0x20 9 2 0x00FEEC) ∧
      Inv (one Config.default sending [.ok, .ok]) :=
  ⟨by decide, inv_one_sending⟩

theorem witness_RxFrameRefusals :
    classify (beginCommand 0 (empty [])).cfg ⟨false, 0x1CEC2080, someFrame.data⟩ = .notTp ∧
      classify (beginCommand 0 (empty [])).cfg ⟨true, 0x1CEC20FF, someFrame.data⟩ ≠ .notTp ∧
      sourceAddr 0x1CEC20FF = 0xFF := by decide

theorem witness_PriorityBitsAreNotRead :
    (0x1CEC2080 : CanId).toNat % 2 ^ 26 = (0x00EC2080 : CanId).toNat % 2 ^ 26 := by decide

theorem witness_PollSendsTheDueFramesInOrder : Inv both := inv_both

theorem witness_PollAdvancesAConnectionSender :
    Inv (one Config.default sending [.ok, .ok]) ∧
      slotAt (beginCommand 1 (one Config.default sending [.ok, .ok])) 1 = some sending ∧ sending.role = .sender ∧
      sending.mode = .connection ∧ sending.state = .sendingData ∧
      frag sending sending.nextSeq = some ⟨1, 0, 1, 2, 3, 4, 5, 6⟩ :=
  ⟨inv_one_sending, by decide, rfl, rfl, rfl, by decide⟩

theorem witness_PollEndsASenderWithItsEomAck :
    Inv (one Config.default ending [.ok]) ∧
      slotAt (beginCommand 1 (one Config.default ending [.ok])) 1 = some ending ∧ ending.state = .awaitingEom :=
  ⟨inv_one_ending, by decide, rfl⟩

/-- One millisecond before the pacing time, and at it. -/
theorem witness_PollPacesABroadcastSender :
    Inv (one Config.default broadcasting [.ok]) ∧
      slotAt (beginCommand 49 (one Config.default broadcasting [.ok])) 1 = some broadcasting ∧
      slotAt (beginCommand 50 (one Config.default broadcasting [.ok])) 1 = some broadcasting ∧
      broadcasting.role = .sender ∧ broadcasting.mode = .broadcast ∧ broadcasting.nextTx = some 50 ∧
      frag broadcasting broadcasting.nextSeq = some ⟨1, 0, 1, 2, 3, 4, 5, 6⟩ :=
  ⟨inv_one_broadcasting, by decide, by decide, rfl, rfl, rfl, by decide⟩

theorem witness_PollLeavesWaitingSessionsAlone :
    Inv (one waiting awaiting [.ok]) ∧
      slotAt (beginCommand 1 (one waiting awaiting [.ok])) 1 = some awaiting ∧ awaiting.state = .rtsSent ∧
      Inv (one Config.default half [.ok]) ∧
      slotAt (beginCommand 1 (one Config.default half [.ok])) 1 = some half ∧ half.role = .receiver :=
  ⟨inv_one_awaiting, by decide, rfl, inv_one_half, by decide, rfl⟩

theorem witness_TransferFieldsNeverChange :
    ∃ t τ, exec (.poll 1) (one Config.default sending [.ok, .ok]) = .next t ∧
      slotAt (beginCommand 1 (one Config.default sending [.ok, .ok])) 1 = some sending ∧ slotAt t 1 = some τ :=
  ⟨_, _, rfl, by decide, rfl⟩

/-- A legal and an illegal configuration, a word that decodes and a frame that does not. -/
theorem witness_StepRunsTheDecodedInstruction :
    (empty []).inputs = [] ∧ legalConfig Config.default = true ∧
      legalConfig { Config.default with nSessions := 0 } = false ∧
      decode Config.default (.command (record 0x4)) = .ok (.poll 7) ∧
      decode Config.default (.frame 7 (cmOf 0x12)) = .error (.malformedCm 0x12) ∧
      ({ empty [] with inputs := [.word (.command (record 0x4))] } : State).inputs
        = [.word (.command (record 0x4))] := by decide

theorem witness_StepRunsTheDecodedInstruction_reset :
    ∃ t, step { empty [.ok] with inputs := [.reset Config.default] } = .next t := ⟨_, rfl⟩

theorem witness_ResetReplacesTheState :
    ({ empty [] with inputs := [.reset Config.default] } : State).inputs = [.reset Config.default] ∧
      legalConfig Config.default = true ∧ legalConfig { Config.default with bamDelay := 49 } = false ∧
      legalConfig { Config.default with bamDelay := 200 } = true ∧
      legalConfig { Config.default with maxRxLen := 1786 } = false := by decide

theorem witness_ResetSatisfiesTheInvariant : legalConfig Config.default = true := by decide

theorem witness_StepKeepsTheInvariant :
    Inv (one Config.default sending [.ok, .ok]) ∧
      ∃ t, step (one Config.default sending [.ok, .ok]) = .next t :=
  ⟨inv_one_sending, _, rfl⟩

theorem witness_StepKeepsBuffersCanonical :
    buffersCanonical (one Config.default sending [.ok, .ok]) ∧
      ∃ t, step ((one Config.default sending [.ok, .ok]).withFetchWord 8 0x04) = .next t :=
  ⟨by decide, _, rfl⟩

theorem witness_EveryInstructionCompletes :
    Inv (one Config.default sending [.ok, .ok]) ∧ Instr.wellFormed (.poll 1) = true :=
  ⟨inv_one_sending, rfl⟩

theorem witness_NoStepStops :
    Inv (one Config.default sending [.ok, .ok]) ∧ nextResetLegal (one Config.default sending [.ok, .ok]) = true :=
  ⟨inv_one_sending, rfl⟩

/-- Does an instruction complete with this status and create this session, given as its slot and key? -/
def creates (i : Instr) (s : State) (st : Status) (created : Option (Nat × Addr × Addr × Role)) : Bool :=
  match exec i s with
  | .next t => t.status == some st && createdSession i s t == created
  | _ => false

/-- A table of one slot whose sender has passed its deadline. -/
def passed (answers : List TxResult) : State :=
  stateWith { waiting with nSessions := 1 } 1250 [some awaiting] answers

/-- No session created; one created by SEND and by the RX_FRAME of a BAM; and one that takes the slot and the key of a
session the sweep ended, started and failed. -/
theorem witness_EverySessionThatLeavesHasOneEnd :
    creates (.cancel 0 0x80 0x20 .sender) (one Config.default sending [.ok]) .ok none ∧
      creates (.send 0 0x80 0x20 7 0x00FEEC nine) (empty [.ok]) .ok (some (0, 0x80, 0x20, .sender)) ∧
      creates (.rxFrame 0 ⟨true, 0x1CECFF80, ⟨0x20, 0x09, 0x00, 0x02, 0xFF, 0xEC, 0xFE, 0x00⟩⟩) (empty []) .ok
        (some (0, 0x80, 0xFF, .receiver)) ∧
      creates (.send 1250 0x80 0x20 7 0x00FEEC nine) (passed [.ok, .ok]) .ok (some (0, 0x80, 0x20, .sender)) ∧
      creates (.send 1250 0x80 0x20 7 0x00FEEC nine) (passed [.ok, .ioErr]) .ioError
        (some (0, 0x80, 0x20, .sender)) := by decide

theorem witness_PassedDeadlineEndsTheSession :
    Inv (one Config.default receiving [.ok]) ∧ Instr.wellFormed (.poll 1250) = true ∧
      slotAt (one Config.default receiving [.ok]) 1 = some receiving ∧ receiving.deadline = some 1250 ∧
      1250 ≤ max (one Config.default receiving [.ok]).clock (nowOf (.poll 1250)) :=
  ⟨inv_one_receiving, rfl, by decide, rfl, by decide⟩

/-- A disarmed and an armed session. -/
theorem witness_CodesAreTheSpecs : sending.deadline = none ∧ awaiting.deadline = some 1250 := by decide

theorem witness_SessionFramesAreAddressedByRole : sending.role = .sender ∧ half.role = .receiver := by decide

end Sys2Proof.Tests
end

section
/-! Facts about a reset, and O52 (70_reset_and_hazards.md R300; 00_scope.md R8). -/

namespace Sys2Proof.Machine

@[simp] theorem length_slots_resetWith (cfg : Config) : (State.resetWith cfg).slots.length = cfg.nSessions :=
  List.length_replicate

theorem step_of_inputs_reset {s : State} {cfg : Config} {rest : List Event} (h : s.inputs = .reset cfg :: rest) :
    step s = applyReset cfg { s with inputs := rest } := by
  simp only [step, h]

theorem applyReset_of_legal {cfg : Config} (h : legalConfig cfg = true) (s : State) :
    applyReset cfg s =
      .next { State.resetWith cfg with inputs := s.inputs, answers := s.answers, draws := s.draws } :=
  if_pos h

theorem applyReset_of_illegal {cfg : Config} (h : legalConfig cfg = false) (s : State) :
    applyReset cfg s = .refused .illegalConfig :=
  if_neg (Bool.eq_false_iff.mp h)

/-- Settles O52: the step is the reset, which answers the state of `State.resetWith` for a legal configuration (only
the environment's own lists go on) and refuses any other. -/
theorem resetReplacesTheState : Obligations.ResetReplacesTheState := by
  intro s cfg rest hin
  rw [step_of_inputs_reset hin]
  constructor
  · intro hlegal
    exact ⟨_, applyReset_of_legal hlegal _, rfl, rfl, rfl, length_slots_resetWith cfg,
      reset_slots_empty cfg⟩
  · intro hillegal
    exact applyReset_of_illegal hillegal _

end Sys2Proof.Machine
end

section
/-! Facts about the decoder's command records and frame classes, O3 (30_encoding.md R93) and O4 (30_encoding.md R83;
00_scope.md R7). -/

namespace Sys2Proof.Machine

/-! ### Command records -/

@[simp] theorem decode_command (cfg : Config) (c : CmdWord) : decode cfg (.command c) = decodeCommand c := rfl

/-- Settles O3: each tested value of cmd_op takes its own branch of the decoder, and a value that is none of the four
takes the last one. -/
theorem cmdOpSelectsTheCommand : Obligations.CmdOpSelectsTheCommand := by
  intro cfg c
  simp only [decode_command]
  refine ⟨fun hsend => ?_, fun hcancel => ?_, fun hrx => ?_, fun hpoll => ?_, fun h1 h2 h3 h4 => ?_⟩
  · simp [decodeCommand, hsend]
  · simp [decodeCommand, hcancel, roleOfBit]
  · simp [decodeCommand, hrx]
  · simp [decodeCommand, hpoll]
  · rw [decodeCommand, if_neg h1, if_neg h2, if_neg h3, if_neg h4]

/-! ### Frame classes -/

theorem classBits_toNat (id : CanId) : (classBits id).toNat = id.toNat / 2 ^ 16 % 2 ^ 10 := by
  rw [classBits, BitVec.extractLsb'_toNat, Nat.shiftRight_eq_div_pow]

/-- The bits P[17:8] of a PGN parameter, as a number: the modulus of the 10-bit field never bites. -/
theorem pgnClassBits_toNat (p : BitVec 18) : (p.extractLsb' 8 10).toNat = p.toNat / 2 ^ 8 := by
  rw [BitVec.extractLsb'_toNat, Nat.shiftRight_eq_div_pow]
  have hp : p.toNat < 2 ^ 18 := p.isLt
  omega

theorem classBits_eq_pgnClassBits_iff (id : CanId) (p : BitVec 18) :
    classBits id = p.extractLsb' 8 10 ↔ id.toNat / 2 ^ 16 % 2 ^ 10 = p.toNat / 2 ^ 8 := by
  rw [← BitVec.toNat_inj, classBits_toNat, pgnClassBits_toNat]

theorem toNat_mod_of_legalTpPgn {p : BitVec 18} (h : legalTpPgn p = true) : p.toNat % 2 ^ 8 = 0 := by
  have hlow : p.extractLsb' 0 8 = 0 := by
    simp only [legalTpPgn, Bool.and_eq_true, beq_iff_eq] at h
    exact h.1
  simpa using congrArg BitVec.toNat hlow

theorem legalConfig_pgns {cfg : Config} (h : legalConfig cfg = true) :
    legalTpPgn cfg.pgnTpcm = true ∧ legalTpPgn cfg.pgnTpdt = true ∧ cfg.pgnTpcm ≠ cfg.pgnTpdt := by
  simp only [legalConfig, Bool.and_eq_true, bne_iff_ne] at h
  obtain ⟨⟨⟨-, hcm⟩, hdt⟩, hne⟩ := h
  exact ⟨hcm, hdt, hne⟩

/-- Two different PGNs with the low byte 0x00 differ in the bits that classification reads: this is what makes CM and
DT disjoint. -/
theorem pgnClassBits_ne_of_legalConfig {cfg : Config} (h : legalConfig cfg = true) :
    cfg.pgnTpcm.extractLsb' 8 10 ≠ cfg.pgnTpdt.extractLsb' 8 10 := by
  obtain ⟨hcm, hdt, hne⟩ := legalConfig_pgns h
  have hcm0 := toNat_mod_of_legalTpPgn hcm
  have hdt0 := toNat_mod_of_legalTpPgn hdt
  have hne' : cfg.pgnTpcm.toNat ≠ cfg.pgnTpdt.toNat := mt BitVec.eq_of_toNat_eq hne
  rw [Ne, ← BitVec.toNat_inj, pgnClassBits_toNat, pgnClassBits_toNat]
  omega

theorem classify_eq_cm_iff (cfg : Config) (f : Frame) :
    classify cfg f = .cm ↔ f.ext = true ∧ classBits f.id = cfg.pgnTpcm.extractLsb' 8 10 := by
  unfold classify
  split_ifs with hcm hdt
  · exact iff_of_true rfl hcm
  · exact iff_of_false nofun hcm
  · exact iff_of_false nofun hcm

/-- The DT test comes second: a legal configuration is what keeps a frame that passes it from being CM. -/
theorem classify_eq_dt_iff {cfg : Config} (h : legalConfig cfg = true) (f : Frame) :
    classify cfg f = .dt ↔ f.ext = true ∧ classBits f.id = cfg.pgnTpdt.extractLsb' 8 10 := by
  unfold classify
  split_ifs with hcm hdt
  · have hnotDt : classBits f.id ≠ cfg.pgnTpdt.extractLsb' 8 10 := hcm.2 ▸ pgnClassBits_ne_of_legalConfig h
    exact iff_of_false nofun fun hdt => hnotDt hdt.2
  · exact iff_of_true rfl hdt
  · exact iff_of_false nofun hdt

theorem classify_eq_notTp_iff (cfg : Config) (f : Frame) :
    classify cfg f = .notTp ↔ f.ext = false ∨
      (classBits f.id ≠ cfg.pgnTpcm.extractLsb' 8 10 ∧ classBits f.id ≠ cfg.pgnTpdt.extractLsb' 8 10) := by
  cases hext : f.ext with
  | false => simp [classify, hext]
  | true =>
    by_cases hcm : classBits f.id = cfg.pgnTpcm.extractLsb' 8 10
    · simp [classify, hext, hcm]
    · simp [classify, hext, hcm]

/-- Settles O4: one lemma per class, with its comparisons read as numbers; only DT needs the legal configuration, for
its disjointness from CM. -/
theorem frameClassIsDecidedByExtAndPgnBits : Obligations.FrameClassIsDecidedByExtAndPgnBits := by
  intro cfg f h
  simp only [classify_eq_cm_iff, classify_eq_dt_iff h, classify_eq_notTp_iff, Ne, classBits_eq_pgnClassBits_iff,
    and_self]

end Sys2Proof.Machine
end

section
/-! Facts about the TP.CM codec, O7 (40_cm_codec.md R125) and O8 (40_cm_codec.md R124). -/

namespace Sys2Proof.Machine

/-! ### Byte assembly and its inverse (00_scope.md R9) -/

@[simp] theorem byte0_toNat (b : Byte) : byte0 b.toNat = b := by
  rw [byte0, BitVec.ofNat_toNat, BitVec.setWidth_eq]

theorem toNat_byte0 {v : Nat} (h : v < 256) : (byte0 v).toNat = v := by
  rw [byte0, BitVec.toNat_ofNat, Nat.mod_eq_of_lt h]

@[simp] theorem byte0_le16 (lo hi : Byte) : byte0 (le16 lo hi) = lo := by
  have hlo : lo.toNat < 256 := lo.isLt
  apply BitVec.eq_of_toNat_eq
  rw [byte0, le16, BitVec.toNat_ofNat]
  omega

@[simp] theorem byte1_le16 (lo hi : Byte) : byte1 (le16 lo hi) = hi := by
  have hlo : lo.toNat < 256 := lo.isLt
  have hhi : hi.toNat < 256 := hi.isLt
  apply BitVec.eq_of_toNat_eq
  rw [byte1, le16, BitVec.toNat_ofNat]
  omega

theorem le16_byte0_byte1 {v : Nat} (h : v < 65536) : le16 (byte0 v) (byte1 v) = v := by
  rw [le16, byte0, byte1, BitVec.toNat_ofNat, BitVec.toNat_ofNat]
  omega

@[simp] theorem le24_extract (pgn : Pgn) :
    le24 (pgn.extractLsb' 0 8) (pgn.extractLsb' 8 8) (pgn.extractLsb' 16 8) = pgn := by
  have hhigh : pgn.extractLsb' 16 8 ++ pgn.extractLsb' 8 8 = pgn.extractLsb' 8 16 :=
    BitVec.extractLsb'_append_extractLsb'_eq_extractLsb' rfl
  rw [le24, hhigh]
  exact BitVec.extractLsb'_append_extractLsb' (w := 16)

@[simp] theorem extract0_le24 (lo mid hi : Byte) : (le24 lo mid hi).extractLsb' 0 8 = lo :=
  BitVec.extractLsb'_append_eq_right

@[simp] theorem extract8_le24 (lo mid hi : Byte) : (le24 lo mid hi).extractLsb' 8 8 = mid := by
  rw [le24, BitVec.extractLsb'_append_eq_of_le (by decide), BitVec.extractLsb'_append_eq_right]

@[simp] theorem extract16_le24 (lo mid hi : Byte) : (le24 lo mid hi).extractLsb' 16 8 = hi := by
  rw [le24, BitVec.extractLsb'_append_eq_of_le (by decide), BitVec.extractLsb'_append_eq_left]

/-! ### The layout (40_cm_codec.md R110) -/

/-- With the PGN read back from bytes 5 to 7, only the first five bytes of a layout can differ from the frame's. -/
theorem cmBytes_le24_eq_iff (c f1 f2 f3 f4 : Byte) (d : Data8) :
    cmBytes c f1 f2 f3 f4 (le24 d.b5 d.b6 d.b7) = d ↔
      d.b0 = c ∧ d.b1 = f1 ∧ d.b2 = f2 ∧ d.b3 = f3 ∧ d.b4 = f4 := by
  cases d
  simp [cmBytes, eq_comm]

/-! ### The decoder, one equation per control byte (40_cm_codec.md R118–R122) -/

theorem decCm_of_rts {d : Data8} (h : d.b0 = 0x10) :
    decCm d = .rts (le16 d.b1 d.b2) d.b3.toNat (le24 d.b5 d.b6 d.b7) := by
  simp [decCm, h]

theorem decCm_of_cts {d : Data8} (h : d.b0 = 0x11) :
    decCm d = .cts d.b1.toNat d.b2.toNat (le24 d.b5 d.b6 d.b7) := by
  simp [decCm, h]

theorem decCm_of_eomAck {d : Data8} (h : d.b0 = 0x13) :
    decCm d = .eomAck (le16 d.b1 d.b2) d.b3.toNat (le24 d.b5 d.b6 d.b7) := by
  simp [decCm, h]

theorem decCm_of_bam {d : Data8} (h : d.b0 = 0x20) :
    decCm d = .bam (le16 d.b1 d.b2) d.b3.toNat (le24 d.b5 d.b6 d.b7) := by
  simp [decCm, h]

theorem decCm_of_abort {d : Data8} (h : d.b0 = 0xFF) : decCm d = .abort d.b1 (le24 d.b5 d.b6 d.b7) := by
  simp [decCm, h]

/-- The control byte of a message's kind (40_cm_codec.md R117). -/
def ctlOf : CmMsg → Byte
  | .rts _ _ _ => 0x10
  | .cts _ _ _ => 0x11
  | .eomAck _ _ _ => 0x13
  | .bam _ _ _ => 0x20
  | .abort _ _ => 0xFF
  | .malformed ctl _ => ctl

/-- The decoded kind tells byte 0. -/
theorem ctlOf_decCm (d : Data8) : ctlOf (decCm d) = d.b0 := by
  simp only [decCm]
  split_ifs with hrts hcts heom hbam habort
  · exact hrts.symm
  · exact hcts.symm
  · exact heom.symm
  · exact hbam.symm
  · exact habort.symm
  · rfl

theorem b0_eq_of_decCm {d : Data8} {m : CmMsg} (h : decCm d = m) : d.b0 = ctlOf m :=
  h ▸ (ctlOf_decCm d).symm

/-! ### Decode of encode -/

theorem decCm_encRts {len np : Nat} (hlen : len < 65536) (hnp : np < 256) (pgn : Pgn) :
    decCm (encRts len np pgn) = .rts len np pgn := by
  rw [decCm_of_rts rfl]
  simp [encRts, cmBytes, le16_byte0_byte1 hlen, toNat_byte0 hnp]

theorem decCm_encCts {n nextSeq : Nat} (hn : n < 256) (hnext : nextSeq < 256) (pgn : Pgn) :
    decCm (encCts n nextSeq pgn) = .cts n nextSeq pgn := by
  rw [decCm_of_cts rfl]
  simp [encCts, cmBytes, toNat_byte0 hn, toNat_byte0 hnext]

theorem decCm_encEomAck {len np : Nat} (hlen : len < 65536) (hnp : np < 256) (pgn : Pgn) :
    decCm (encEomAck len np pgn) = .eomAck len np pgn := by
  rw [decCm_of_eomAck rfl]
  simp [encEomAck, cmBytes, le16_byte0_byte1 hlen, toNat_byte0 hnp]

theorem decCm_encBam {len np : Nat} (hlen : len < 65536) (hnp : np < 256) (pgn : Pgn) :
    decCm (encBam len np pgn) = .bam len np pgn := by
  rw [decCm_of_bam rfl]
  simp [encBam, cmBytes, le16_byte0_byte1 hlen, toNat_byte0 hnp]

theorem decCm_encAbort (reason : Byte) (pgn : Pgn) : decCm (encAbort reason pgn) = .abort reason pgn := by
  rw [decCm_of_abort rfl]
  simp [encAbort, cmBytes]

/-! ### Encode of decode: what is left to compare are the reserved bytes -/

theorem encRts_eq_iff {d : Data8} {a b : Nat} {pgn : Pgn} (h : decCm d = .rts a b pgn) :
    encRts a b pgn = d ↔ d.b4 = 0xFF := by
  have h0 : d.b0 = 0x10 := b0_eq_of_decCm h
  obtain ⟨rfl, rfl, rfl⟩ := CmMsg.rts.inj ((decCm_of_rts h0).symm.trans h)
  simp [encRts, cmBytes_le24_eq_iff, h0]

theorem encEomAck_eq_iff {d : Data8} {a b : Nat} {pgn : Pgn} (h : decCm d = .eomAck a b pgn) :
    encEomAck a b pgn = d ↔ d.b4 = 0xFF := by
  have h0 : d.b0 = 0x13 := b0_eq_of_decCm h
  obtain ⟨rfl, rfl, rfl⟩ := CmMsg.eomAck.inj ((decCm_of_eomAck h0).symm.trans h)
  simp [encEomAck, cmBytes_le24_eq_iff, h0]

theorem encBam_eq_iff {d : Data8} {a b : Nat} {pgn : Pgn} (h : decCm d = .bam a b pgn) :
    encBam a b pgn = d ↔ d.b4 = 0xFF := by
  have h0 : d.b0 = 0x20 := b0_eq_of_decCm h
  obtain ⟨rfl, rfl, rfl⟩ := CmMsg.bam.inj ((decCm_of_bam h0).symm.trans h)
  simp [encBam, cmBytes_le24_eq_iff, h0]

theorem encCts_eq_iff {d : Data8} {a b : Nat} {pgn : Pgn} (h : decCm d = .cts a b pgn) :
    encCts a b pgn = d ↔ d.b3 = 0xFF ∧ d.b4 = 0xFF := by
  have h0 : d.b0 = 0x11 := b0_eq_of_decCm h
  obtain ⟨rfl, rfl, rfl⟩ := CmMsg.cts.inj ((decCm_of_cts h0).symm.trans h)
  simp [encCts, cmBytes_le24_eq_iff, h0]

theorem encAbort_eq_iff {d : Data8} {reason : Byte} {pgn : Pgn} (h : decCm d = .abort reason pgn) :
    encAbort reason pgn = d ↔ d.b2 = 0xFF ∧ d.b3 = 0xFF ∧ d.b4 = 0xFF := by
  have h0 : d.b0 = 0xFF := b0_eq_of_decCm h
  obtain ⟨rfl, rfl⟩ := CmMsg.abort.inj ((decCm_of_abort h0).symm.trans h)
  simp [encAbort, cmBytes_le24_eq_iff, h0]

/-- Settles O7: a round trip and a comparison of reserved bytes per kind. The round trip even holds for every 16-bit
total_len. -/
theorem cmCodecRoundTrip : Obligations.CmCodecRoundTrip := by
  constructor
  · intro len np n nextSeq reason pgn hlen hnp hn hnext
    have hlen16 : len < 65536 := hlen.trans (by decide)
    exact ⟨decCm_encRts hlen16 hnp pgn, decCm_encEomAck hlen16 hnp pgn, decCm_encBam hlen16 hnp pgn,
      decCm_encCts hn hnext pgn, decCm_encAbort reason pgn⟩
  · intro d a b reason pgn
    exact ⟨encRts_eq_iff, encEomAck_eq_iff, encBam_eq_iff, encCts_eq_iff, encAbort_eq_iff⟩

/-! ### The reserved bytes (40_cm_codec.md R124) -/

/-- Settles O8: an Abort and a CTS have an equation of their own, which reads no reserved byte; in every other kind the
bytes that may differ are byte 4 alone, which the decoder does not name. -/
theorem cmDecoderIgnoresReservedBytes : Obligations.CmDecoderIgnoresReservedBytes := by
  intro d e h0 h1 h5 h6 h7 h2 h3
  by_cases habort : d.b0 = 0xFF
  · rw [decCm_of_abort habort, decCm_of_abort (h0 ▸ habort), h1, h5, h6, h7]
  by_cases hcts : d.b0 = 0x11
  · rw [decCm_of_cts hcts, decCm_of_cts (h0 ▸ hcts), h1, h2 habort, h5, h6, h7]
  · simp only [decCm, h0, h1, h2 habort, h3 habort hcts, h5, h6, h7]

end Sys2Proof.Machine
end

section
/-! Facts about the DT codec: the segment geometry and O10 (41_dt_codec.md R140, R141), the reassembler and O12
(41_dt_codec.md R145–R148), and the transfer of a whole payload, O13 (41_dt_codec.md R150). -/

namespace Sys2Proof.Machine

/-! ### Segment geometry (41_dt_codec.md R140, R141) -/

theorem segOff_eq (i : Nat) : segOff i = 7 * (i - 1) := rfl

theorem segLen_eq (len i : Nat) : segLen len i = min 7 (len - segOff i) := rfl

theorem segOff_succ {i : Nat} (h : 1 ≤ i) : segOff (i + 1) = segOff i + 7 := by
  rw [segOff_eq, segOff_eq]
  omega

/-- num_packets is the ceiling of len / 7. -/
theorem numPacketsOf_bounds (len : Nat) : len ≤ 7 * numPacketsOf len ∧ 7 * numPacketsOf len ≤ len + 6 := by
  change len ≤ 7 * ((len + 6) / 7) ∧ 7 * ((len + 6) / 7) ≤ len + 6
  omega

theorem segOff_lt_of_le_numPacketsOf {len i : Nat} (hlen : 0 < len) (h : i ≤ numPacketsOf len) : segOff i < len := by
  have hnp := numPacketsOf_bounds len
  rw [segOff_eq]
  omega

/-- The segment of an offset is told by its seventh: this is what makes the segments disjoint. -/
theorem mem_segment_iff {len i a : Nat} (hi : 1 ≤ i) :
    (segOff i ≤ a ∧ a < segOff i + segLen len i) ↔ a < len ∧ i = a / 7 + 1 := by
  rw [segLen_eq, segOff_eq]
  omega

/-- Settles O10: the numbers from the bounds of the ceiling, the partition from the segment of an offset. -/
theorem segmentsPartitionThePayload : Obligations.SegmentsPartitionThePayload := by
  intro len hmin hmax
  obtain ⟨hle, hge⟩ := numPacketsOf_bounds len
  refine ⟨by omega, by omega, by omega, hle, fun i _ _ => segOff_eq i, fun i _ hi => ?_, ?_, fun a ha => ?_⟩
  · rw [segLen_eq, segOff_eq]
    omega
  · rw [segLen_eq, segOff_eq]
    omega
  · obtain ⟨hlo, hhi⟩ := (mem_segment_iff (i := a / 7 + 1) (by omega)).2 ⟨ha, rfl⟩
    exact ⟨a / 7 + 1, ⟨by omega, by omega, hlo, hhi⟩, fun j hj _ hjlo hjhi =>
      ((mem_segment_iff hj).1 ⟨hjlo, hjhi⟩).2⟩

/-! ### The next segment (41_dt_codec.md R146, R147) -/

/-- The receiver after its next segment: the bytes inside the payload stored at its offset, next_seq advanced. -/
def storeSegment (σ : Session) (p : List Byte) : Session :=
  { σ with
    nextSeq := σ.nextSeq + 1
    buf := Memory.writeBytes σ.buf (segOff σ.nextSeq) (p.take (segLen σ.totalLen σ.nextSeq)) }

/-- The next segment is stored and gives COMPLETE exactly where it is the last; the write stays inside total_len
whatever the bytes are. -/
theorem reasm_of_next {σ : Session} (hoff : segOff σ.nextSeq ≤ σ.totalLen) (hnp : σ.nextSeq ≤ σ.numPackets)
    (p : List Byte) : reasm σ σ.nextSeq p =
      some (if σ.nextSeq = σ.numPackets then .complete else .accept, storeSegment σ p) := by
  have hfit : segOff σ.nextSeq + (p.take (segLen σ.totalLen σ.nextSeq)).length ≤ σ.totalLen := by
    rw [List.length_take, segLen_eq]
    omega
  have hlast : σ.nextSeq + 1 > σ.numPackets ↔ σ.nextSeq = σ.numPackets := by omega
  rw [reasm, if_pos rfl, memWrite, if_pos hfit]
  simp only [hlast, storeSegment]

/-- Settles O12: the accepted segment is one write of exactly its bytes inside the payload, and the laws of the buffer
say what each byte then reads as. -/
theorem reassemblerTakesOnlyTheNextSegment : Obligations.ReassemblerTakesOnlyTheNextSegment := by
  intro σ seq p hmin hmax hnp hwf hp hfirst hlast
  refine ⟨?_, fun hother => reasm_of_other hother p⟩
  rintro rfl
  have hoff : segOff σ.nextSeq < σ.totalLen := segOff_lt_of_le_numPacketsOf (by omega) (hnp ▸ hlast)
  have hlen : (p.take (segLen σ.totalLen σ.nextSeq)).length = segLen σ.totalLen σ.nextSeq := by
    rw [List.length_take, segLen_eq]
    omega
  simp only [← segLen_eq, ← segOff_eq]
  refine ⟨storeSegment σ p, reasm_of_next hoff.le hlast p, rfl, ?_, fun a ha => ?_⟩
  · have hread := Memory.readBytes_writeBytes hwf (segOff σ.nextSeq) (p.take (segLen σ.totalLen σ.nextSeq))
    rwa [hlen] at hread
  · rw [storeSegment, Memory.read_writeBytes hwf, if_neg (by omega)]

/-! ### The fragmenter (41_dt_codec.md R142–R144) -/

theorem dtSeq_dtBytes {i : Nat} (h : i < 256) (p : List Byte) : dtSeq (dtBytes i p) = i := toNat_byte0 h

/-- A DT frame carries the bytes of its segment and 0xFF to the right of them. -/
theorem dtPayload_dtBytes (i : Nat) {p : List Byte} (h : p.length ≤ 7) :
    dtPayload (dtBytes i p) = p ++ List.replicate (7 - p.length) 0xFF := by
  have hmap : dtPayload (dtBytes i p) = (List.range 7).map fun k => p.getD k 0xFF := rfl
  rw [hmap]
  refine List.ext_getElem (by simp; omega) fun k _ _ => ?_
  by_cases hk : k < p.length
  · simp [hk]
  · simp [List.getElem_append, hk]

/-- A read inside what a longer read gives is a slice of it. -/
theorem Memory.readBytes_slice {m : Memory} {len off n : Nat} {payload : List Byte}
    (h : Memory.readBytes m 0 len = some payload) (hfit : off + n ≤ len) :
    Memory.readBytes m off n = some ((payload.drop off).take n) := by
  obtain ⟨hlen, hbytes⟩ := (Memory.readBytes_eq_some_iff ..).1 h
  refine (Memory.readBytes_eq_some_iff ..).2 ⟨by rw [List.length_take, List.length_drop]; omega, fun k hk => ?_⟩
  rw [List.getElem?_take_of_lt hk, List.getElem?_drop, ← hbytes (off + k) (by omega), Nat.zero_add]

/-- FRAG of a session that holds the payload: the segment is the payload's next 7 bytes, fewer at its end. -/
theorem frag_of_memRead {σ : Session} {payload : List Byte} {i : Nat}
    (h : memRead σ 0 σ.totalLen = some payload) (hoff : segOff i ≤ σ.totalLen) :
    frag σ i = some (dtBytes i ((payload.drop (segOff i)).take 7)) := by
  have hlen : payload.length = σ.totalLen := ((Memory.readBytes_eq_some_iff ..).1 h).1
  have hfit : segOff i + segLen σ.totalLen i ≤ σ.totalLen := by
    rw [segLen_eq]
    omega
  have hslice : (payload.drop (segOff i)).take (segLen σ.totalLen i) = (payload.drop (segOff i)).take 7 := by
    rw [List.take_eq_take_iff, List.length_drop, segLen_eq]
    omega
  rw [frag, memRead, Memory.readBytes_slice h hfit, hslice]

/-! ### A buffer that holds exactly some bytes -/

/-- The buffer lists the bytes from offset 0 on and no other. -/
def Memory.Holds (m : Memory) (bytes : List Byte) : Prop := Memory.wf m ∧ ∀ a, Memory.read m a = bytes[a]?

theorem Memory.holds_nil : Memory.Holds [] [] := ⟨Memory.wf_nil, fun _ => rfl⟩

/-- A write right behind the bytes held appends to them. -/
theorem Memory.Holds.append {m : Memory} {bytes : List Byte} (h : Memory.Holds m bytes) (more : List Byte) :
    Memory.Holds (Memory.writeBytes m bytes.length more) (bytes ++ more) := by
  obtain ⟨hwf, hread⟩ := h
  refine ⟨Memory.wf_writeBytes hwf _ _, fun a => ?_⟩
  rw [Memory.read_writeBytes hwf, hread]
  split_ifs with ha
  · rw [List.getElem?_append_right ha.1]
  · rcases Nat.lt_or_ge a bytes.length with hlt | hge
    · rw [List.getElem?_append_left hlt]
    · rw [List.getElem?_eq_none hge, List.getElem?_eq_none (by rw [List.length_append]; omega)]

theorem Memory.Holds.readBytes {m : Memory} {bytes : List Byte} (h : Memory.Holds m bytes) :
    Memory.readBytes m 0 bytes.length = some bytes :=
  (Memory.readBytes_eq_some_iff ..).2 ⟨rfl, fun k _ => by rw [Nat.zero_add, h.2]⟩

theorem Memory.Holds.read_eq_none {m : Memory} {bytes : List Byte} (h : Memory.Holds m bytes) {a : Nat}
    (ha : bytes.length ≤ a) : Memory.read m a = none := by
  rw [h.2, List.getElem?_eq_none ha]

/-! ### The transfer of a payload (41_dt_codec.md R150) -/

theorem transferSegments_succ {σ ρ ρ1 ρ2 : Session} {k : Nat} {d : Data8} {r : ReasmResult} {rs : List ReasmResult}
    (hfrag : frag σ ρ.nextSeq = some d) (hreasm : reasm ρ (dtSeq d) (dtPayload d) = some (r, ρ1))
    (hrest : transferSegments σ k ρ1 = some (rs, ρ2)) : transferSegments σ (k + 1) ρ = some (r :: rs, ρ2) := by
  simp only [transferSegments, hfrag, hreasm, hrest]

/-- A receiver in the middle of a transfer of the payload: its buffer holds the segments before next_seq and nothing
else. -/
structure Receiving (payload : List Byte) (np : Nat) (ρ : Session) : Prop where
  totalLen : ρ.totalLen = payload.length
  numPackets : ρ.numPackets = np
  one_le_nextSeq : 1 ≤ ρ.nextSeq
  holds : Memory.Holds ρ.buf (payload.take (segOff ρ.nextSeq))

section
variable {σ ρ : Session} {payload : List Byte} {np : Nat}

/-- Storing what the frame of the payload's next segment carries takes the receiver one segment further; the fill bytes
lie outside the payload and are not stored. -/
theorem Receiving.after_storeSegment (h : Receiving payload np ρ) (hoff : segOff ρ.nextSeq ≤ payload.length) :
    Receiving payload np
      (storeSegment ρ (dtPayload (dtBytes ρ.nextSeq ((payload.drop (segOff ρ.nextSeq)).take 7)))) where
  totalLen := h.totalLen
  numPackets := h.numPackets
  one_le_nextSeq := Nat.le_add_left ..
  holds := by
    have hheld : (payload.take (segOff ρ.nextSeq)).length = segOff ρ.nextSeq := List.length_take_of_le hoff
    have hseg : ((payload.drop (segOff ρ.nextSeq)).take 7).length = segLen ρ.totalLen ρ.nextSeq := by
      rw [List.length_take, List.length_drop, h.totalLen, segLen_eq]
    have happend := h.holds.append ((payload.drop (segOff ρ.nextSeq)).take 7)
    rw [hheld, ← List.take_add, ← segOff_succ h.one_le_nextSeq] at happend
    rwa [storeSegment, dtPayload_dtBytes _ (List.length_take_le ..), ← hseg, List.take_left]

/-- One segment of the transfer: FRAG's frame is taken by the reassembler. -/
theorem Receiving.step (hσ : σ.totalLen = payload.length) (hread : memRead σ 0 payload.length = some payload)
    (hnp : np < 256) (hlen : 7 * (np - 1) < payload.length) (h : Receiving payload np ρ) (hle : ρ.nextSeq ≤ np) :
    ∃ d ρ1, frag σ ρ.nextSeq = some d ∧
      reasm ρ (dtSeq d) (dtPayload d) = some (if ρ.nextSeq = np then .complete else .accept, ρ1) ∧
      Receiving payload np ρ1 ∧ ρ1.nextSeq = ρ.nextSeq + 1 := by
  have hoff : segOff ρ.nextSeq ≤ payload.length := by
    rw [segOff_eq]
    omega
  refine ⟨_, _, frag_of_memRead (hσ ▸ hread) (hσ ▸ hoff), ?_, h.after_storeSegment hoff, rfl⟩
  rw [dtSeq_dtBytes (by omega), reasm_of_next (h.totalLen ▸ hoff) (h.numPackets ▸ hle), h.numPackets]

/-- The transfer of the last k + 1 segments, by induction on k: ACCEPT before the last one, COMPLETE with it. -/
theorem Receiving.transferSegments_rest (hσ : σ.totalLen = payload.length)
    (hread : memRead σ 0 payload.length = some payload) (hnp : np < 256) (hlen : 7 * (np - 1) < payload.length)
    (k : Nat) (h : Receiving payload np ρ) (hk : ρ.nextSeq + k = np) :
    ∃ ρ', transferSegments σ (k + 1) ρ = some (List.replicate k .accept ++ [.complete], ρ') ∧
      Receiving payload np ρ' ∧ ρ'.nextSeq = np + 1 := by
  induction k generalizing ρ with
  | zero =>
    obtain ⟨d, ρ1, hfrag, hreasm, h1, hnext⟩ := h.step hσ hread hnp hlen (by omega)
    rw [if_pos (by omega)] at hreasm
    exact ⟨ρ1, transferSegments_succ hfrag hreasm rfl, h1, by omega⟩
  | succ k ih =>
    obtain ⟨d, ρ1, hfrag, hreasm, h1, hnext⟩ := h.step hσ hread hnp hlen (by omega)
    rw [if_neg (by omega)] at hreasm
    obtain ⟨ρ', htransfer, h', hend⟩ := ih h1 (by omega)
    exact ⟨ρ', transferSegments_succ hfrag hreasm htransfer, h', hend⟩

end

/-- Settles O13: a new receiver holds the segments before the first, the transfer keeps what `Receiving` says to the
end, and the segments before np + 1 are the whole payload. -/
theorem fragmentThenReassembleGivesThePayload : Obligations.FragmentThenReassembleGivesThePayload := by
  intro σ ρ payload np hmin hmax hlo hhi hσ hread hρlen hρnp hρnext hρbuf
  have hnew : Receiving payload np ρ :=
    ⟨hρlen, hρnp, hρnext.ge, by rw [hρbuf, hρnext]; exact Memory.holds_nil⟩
  obtain ⟨ρ', htransfer, hend, hnext⟩ :=
    hnew.transferSegments_rest hσ hread (by omega) hlo (np - 1) (by omega)
  have hholds : Memory.Holds ρ'.buf payload := by
    have hheld := hend.holds
    rwa [hnext, segOff_eq, Nat.add_sub_cancel, List.take_of_length_le hhi] at hheld
  have hseg : ((payload.drop (segOff np)).take 7).length = payload.length - 7 * (np - 1) := by
    rw [List.length_take, List.length_drop, segOff_eq]
    omega
  refine ⟨ρ', _, ?_, hholds.readBytes, hnext, fun a ha => hholds.read_eq_none ha,
    frag_of_memRead (hσ ▸ hread) (hσ ▸ hlo.le), ?_⟩
  · rwa [Nat.sub_add_cancel (by omega)] at htransfer
  · rw [dtPayload_dtBytes _ (List.length_take_le ..), ← hseg, List.drop_left]

end Sys2Proof.Machine
end

section
/-! The addressing of a session's frames and O60 (42_session_fsm.md R161), the end of a session and O20 (R164), and the
abort that sends a reason, a failed transmission, and O28 (R163, R165, R189). -/

namespace Sys2Proof.Machine

/-! ### Addressing (42_session_fsm.md R161) -/

theorem cmf_of_sender {σ : Session} (h : σ.role = .sender) (cfg : Config) (d : Data8) :
    cmf cfg σ d = ⟨true, mkId σ.prio cfg.pgnTpcm σ.dst σ.src, d⟩ := by
  simp [cmf, cmFrame, framePrio, peerAddr, localAddr, h]

theorem dtf_of_sender {σ : Session} (h : σ.role = .sender) (cfg : Config) (d : Data8) :
    dtf cfg σ d = ⟨true, mkId σ.prio cfg.pgnTpdt σ.dst σ.src, d⟩ := by
  simp [dtf, dtFrame, framePrio, peerAddr, localAddr, h]

theorem cmf_of_receiver {σ : Session} (h : σ.role = .receiver) (cfg : Config) (d : Data8) :
    cmf cfg σ d = ⟨true, mkId cfg.replyPrio cfg.pgnTpcm σ.src σ.dst, d⟩ := by
  simp [cmf, cmFrame, framePrio, peerAddr, localAddr, h]

theorem dtf_of_receiver {σ : Session} (h : σ.role = .receiver) (cfg : Config) (d : Data8) :
    dtf cfg σ d = ⟨true, mkId cfg.replyPrio cfg.pgnTpdt σ.src σ.dst, d⟩ := by
  simp [dtf, dtFrame, framePrio, peerAddr, localAddr, h]

/-- Settles O60: one equation per role and kind of frame. -/
theorem sessionFramesAreAddressedByRole : Obligations.SessionFramesAreAddressedByRole := by
  intro cfg σ d
  exact ⟨fun hs => ⟨cmf_of_sender hs cfg d, dtf_of_sender hs cfg d⟩,
    fun hr => ⟨cmf_of_receiver hr cfg d, dtf_of_receiver hr cfg d⟩⟩

/-! ### The end of a session (42_session_fsm.md R164) -/

/-- Settles O20: the state after finish is the one of `finish_sender` and `finish_receiver`, field by field. -/
theorem finishReportsDoneAndFrees : Obligations.FinishReportsDoneAndFrees := by
  intro i σ s
  constructor
  · intro hrole
    rw [finish_sender hrole, endReport, hrole]
    rfl
  · intro d hrole hd
    rw [finish_receiver hrole hd, endReport, hrole]
    rfl

/-! ### The trace of an abort that has a reason of its own (42_session_fsm.md R165) -/

theorem abortTxOf_eq (r : TxResult) : abortTxOf r = if r = .ok then .ok else .failed := by
  cases r <;> rfl

theorem abortFrameReason_of_connection {σ : Session} (h : σ.mode = .connection) (cfg : Config) (ev : AbortEvent) :
    abortFrameReason cfg σ ev = reasonSent cfg ev := by
  rw [abortFrameReason, h]

theorem abortFrameReason_of_not_connection {σ : Session} (h : σ.mode ≠ .connection) (cfg : Config)
    (ev : AbortEvent) : abortFrameReason cfg σ ev = none := by
  cases hmode : σ.mode with
  | connection => exact absurd hmode h
  | broadcast => rw [abortFrameReason, hmode]

/-- Where a cause sends a reason, it received none; so in broadcast mode the END item carries none. -/
theorem reasonReceived_of_reasonSent {cfg : Config} {ev : AbortEvent} {r : Byte} (h : reasonSent cfg ev = some r) :
    reasonReceived ev = none := by
  cases ev with
  | peerAbort reason => cases h
  | _ => rfl

/-- An abort for a cause that sends reason r: the Abort frame only in connection mode, then the END item. -/
theorem abort_trace_of_reasonSent {s : State} {ev : AbortEvent} {r : Byte} (h : reasonSent s.cfg ev = some r)
    (i : Nat) (σ : Session) : (abort i σ ev s).trace = s.trace ++
      if σ.mode = .connection then
        [.tx (cmf s.cfg σ (encAbort r σ.pgn)) (tx (cmf s.cfg σ (encAbort r σ.pgn)) s).1,
          endReport i σ .aborted (causeOf ev) (some r)
            (if (tx (cmf s.cfg σ (encAbort r σ.pgn)) s).1 = .ok then .ok else .failed) none]
      else [endReport i σ .aborted (causeOf ev) none .none none] := by
  rw [abort_trace]
  split_ifs with hmode hok
  · rw [abortFrameReason_of_connection hmode, h]
    simp only [abortTxOf_eq, if_pos hok]
  · rw [abortFrameReason_of_connection hmode, h]
    simp only [abortTxOf_eq, if_neg hok]
  · rw [abortFrameReason_of_not_connection hmode, reasonReceived_of_reasonSent h]

/-! ### A session's last frame, sent or failed (42_session_fsm.md R163) -/

@[simp] theorem slotAt_tx (f : Frame) (s : State) (j : Nat) : slotAt (tx f s).2 j = slotAt s j :=
  slotAt_congr (tx_slots f s) j

theorem abortFrameReason_ioError (cfg : Config) (σ : Session) : abortFrameReason cfg σ .ioError = none := by
  by_cases hmode : σ.mode = .connection
  · exact abortFrameReason_of_connection hmode cfg .ioError
  · exact abortFrameReason_of_not_connection hmode cfg .ioError

theorem trace_of_last_frame {f : Frame} {s : State} (h : (tx f s).1 = .ok) (i : Nat) (item : TraceItem) :
    (free i (emit item (tx f s).2)).trace = s.trace ++ [.tx f .ok, item] := by
  simp [h]

/-- The frame with its answer, then the END item: no Abort frame follows a failed transmission. -/
theorem trace_of_failed_tx (i : Nat) (σ : Session) (f : Frame) (s : State) :
    (abort i σ .ioError (tx f s).2).trace =
      s.trace ++ [.tx f (tx f s).1, endReport i σ .aborted .ioError none .none none] := by
  rw [abort_trace, abortFrameReason_ioError]
  simp [causeOf, reasonReceived]

/-! ### CANCEL (42_session_fsm.md R189; 43_session_table.md R238) -/

theorem exec_cancel (now : Millis) (src dst : Addr) (role : Role) (s : State) :
    exec (.cancel now src dst role) s = cancelRule src dst role (beginCommand now s) := rfl

theorem cancelRule_of_found {src dst : Addr} {role : Role} {s : State} {i : Nat} {σ : Session}
    (hi : lookup src dst role s = some i) (hσ : slotAt s i = some σ) :
    cancelRule src dst role s = ret .ok (abort i σ .cancelled s) := by
  simp only [cancelRule, hi, hσ, cancelAt]

theorem cancelRule_of_not_found {src dst : Addr} {role : Role} {s : State} (h : lookup src dst role s = none) :
    cancelRule src dst role s = ret .noSession s := by
  simp only [cancelRule, h]

/-- Settles O28: the named session is aborted with cause CANCELLED, whose trace and slots the laws of abort give. -/
theorem cancelEndsTheNamedSession : Obligations.CancelEndsTheNamedSession := by
  rintro now src dst role s s0 rfl
  constructor
  · rintro i σ f hi hσ rfl
    refine ⟨_, (exec_cancel ..).trans (cancelRule_of_found hi hσ), rfl, ?_, ?_, fun j hj => ?_, ?_⟩
    · exact (abort_slotOut ..).trans (beginCommand_slotOut now s)
    · exact (slotAt_abort ..).trans (if_pos rfl)
    · exact (slotAt_abort ..).trans (if_neg hj)
    · exact abort_trace_of_reasonSent rfl i σ
  · intro hnone
    rw [exec_cancel, cancelRule_of_not_found hnone, ret_eq]

end Sys2Proof.Machine
end

section
/-! The start of a session in the slot just allocated: SEND and O25, O26 (42_session_fsm.md R167, R168, R175), an
accepted RTS and O29 (R177), an accepted BAM and O31 (R178). -/

namespace Sys2Proof.Machine

/-! ### The first frame of a new session (42_session_fsm.md R163) -/

/-- The adapter's answer does not depend on the table. -/
@[simp] theorem tx_setSlot_answer (f : Frame) (i : Nat) (v : Option Session) (s : State) :
    (tx f (setSlot i v s)).1 = (tx f s).1 :=
  tx_answer_congr f f rfl rfl

section
variable {s : State} {i : Nat}

/-- A new session whose first frame failed leaves the table as it was before its allocation. -/
theorem slots_of_failed_start (h : alloc s = some i) (σ ρ : Session) (f : Frame) :
    (abort i ρ .ioError (tx f (setSlot i (some σ) s)).2).slots = s.slots := by
  rw [abort_slots, tx_slots]
  exact free_setSlot_slots i (some σ) s (alloc_spec h).2

/-- A new session whose first frame failed is reported after that frame. -/
theorem trace_of_failed_start (i : Nat) (v : Option Session) (ρ : Session) (f : Frame) :
    (abort i ρ .ioError (tx f (setSlot i v s)).2).trace =
      s.trace ++ [.tx f (tx f s).1, endReport i ρ .aborted .ioError none .none none] := by
  rw [trace_of_failed_tx, tx_setSlot_answer, setSlot_trace]

/-- The slot just allocated, written once more after the first frame. -/
theorem slotAt_started (h : alloc s = some i) (v : Option Session) (τ : Session) (f : Frame) :
    slotAt (setSlot i (some τ) (tx f (setSlot i v s)).2) i = some τ :=
  slotAt_setSlot_same (by simpa using (alloc_spec h).1) _

theorem slotAt_started_other {j : Nat} (h : j ≠ i) (v w : Option Session) (f : Frame) :
    slotAt (setSlot i w (tx f (setSlot i v s)).2) j = slotAt s j := by
  rw [slotAt_setSlot_other h, slotAt_tx, slotAt_setSlot_other h]

theorem trace_of_sent_start {f : Frame} (h : (tx f s).1 = .ok) (i : Nat) (v : Option Session) :
    (tx f (setSlot i v s)).2.trace = s.trace ++ [.tx f .ok] := by
  simp [h]

end

/-! ### The STARTs, by the answer to their frame -/

section
variable {i : Nat} {σ : Session} {s : State} {f : Frame}

/-- The session that a sent RTS leaves (42_session_fsm.md R167, R168). -/
def afterRts (cfg : Config) (clock : Millis) (σ : Session) : Session :=
  { σ with
    state := if cfg.waitCts then .rtsSent else .sendingData
    windowEnd := if cfg.waitCts then σ.windowEnd else σ.numPackets
    deadline := if cfg.waitCts then some (clock + cfg.t3) else none }

theorem startSenderConnection_eq (hf : cmf s.cfg σ (encRts σ.totalLen σ.numPackets σ.pgn) = f) :
    startSenderConnection i σ s =
      if (tx f s).1 = .ok then retSlot .ok i (setSlot i (some (afterRts s.cfg s.clock σ)) (tx f s).2)
      else ret .ioError (abort i σ .ioError (tx f s).2) := by
  rw [startSenderConnection, hf]
  split_ifs with hok
  · rw [stx_of_ok i σ hok]
    simp only [tx_cfg, tx_clock, afterRts]
    split_ifs <;> rfl
  · rw [stx_of_failed i σ hok]

theorem startSenderBroadcast_eq (hf : cmf s.cfg σ (encBam σ.totalLen σ.numPackets σ.pgn) = f) :
    startSenderBroadcast i σ s =
      if (tx f s).1 = .ok then retSlot .ok i (setSlot i
        (some { σ with nextTx := some (s.clock + s.cfg.bamDelay), state := .sendingData }) (tx f s).2)
      else ret .ioError (abort i σ .ioError (tx f s).2) := by
  rw [startSenderBroadcast, hf]
  split_ifs with hok
  · rw [stx_of_ok i σ hok]
    simp only [tx_cfg, tx_clock]
  · rw [stx_of_failed i σ hok]

theorem startReceiverConnection_eq (hf : cmf s.cfg σ (encCts σ.numPackets 1 σ.pgn) = f) :
    startReceiverConnection i σ s =
      if (tx f s).1 = .ok then
        ret .ok (setSlot i (some (arm s.clock s.cfg.t2 { σ with state := .ctsSent })) (tx f s).2)
      else ret .ioError (abort i σ .ioError (tx f s).2) := by
  rw [startReceiverConnection, hf]
  split_ifs with hok
  · rw [stx_of_ok i σ hok]
    simp only [tx_cfg, tx_clock]
  · rw [stx_of_failed i σ hok]

end

/-! ### SEND (43_session_table.md R237) -/

theorem exec_send (now : Millis) (src dst : Addr) (prio : BitVec 3) (pgn : Pgn) (payload : List Byte) (s : State) :
    exec (.send now src dst prio pgn payload) s = sendRule src dst prio pgn payload (beginCommand now s) := rfl

/-- The session a SEND allocates: the payload is in its buffer. -/
def newSender (mode : Mode) (src dst : Addr) (prio : BitVec 3) (pgn : Pgn) (payload : List Byte) (clock : Millis) :
    Session :=
  { newSession .sender mode src dst prio pgn payload.length (numPacketsOf payload.length) clock with
    buf := Memory.writeBytes [] 0 payload }

theorem newSender_holds (mode : Mode) (src dst : Addr) (prio : BitVec 3) (pgn : Pgn) (payload : List Byte)
    (clock : Millis) : Memory.Holds (newSender mode src dst prio pgn payload clock).buf payload :=
  Memory.holds_nil.append payload

/-- The payload fits: it is as long as the session. -/
theorem memWrite_newSession (mode : Mode) (src dst : Addr) (prio : BitVec 3) (pgn : Pgn) (payload : List Byte)
    (clock : Millis) :
    memWrite (newSession .sender mode src dst prio pgn payload.length (numPacketsOf payload.length) clock) 0 payload =
      some (newSender mode src dst prio pgn payload clock) :=
  if_pos (Nat.zero_add payload.length).le

/-- A SEND that passes its checks starts the session it allocates. -/
theorem sendRule_of_accepted {src dst : Addr} {prio : BitVec 3} {pgn : Pgn} {payload : List Byte} {s : State} {i : Nat}
    (hmin : 9 ≤ payload.length) (hmax : payload.length ≤ 1785) (hsrc : src ≠ 0xFF)
    (hfree : lookup src dst .sender s = none) (hi : alloc s = some i) :
    sendRule src dst prio pgn payload s =
      startSender i (newSender (senderMode dst) src dst prio pgn payload s.clock)
        (setSlot i (some (newSender (senderMode dst) src dst prio pgn payload s.clock)) s) := by
  have hlen : ¬(payload.length < lMin ∨ lMax < payload.length) := by
    simp only [lMin, lMax]
    omega
  rw [sendRule, if_neg hlen, if_neg hsrc, hfree, if_neg (by simp), hi]
  dsimp only
  rw [memWrite_newSession]

/-- Settles O25: the new sender's START by the answer to its RTS. -/
theorem sendStartsAConnectionSession : Obligations.SendStartsAConnectionSession := by
  rintro now src dst prio pgn payload s s0 i f rfl hmin hmax hsrc hdst hfree hi hf
  have hmode : senderMode dst = .connection := if_neg hdst
  have haccepted := (exec_send now src dst prio pgn payload s).trans (sendRule_of_accepted hmin hmax hsrc hfree hi)
  rw [hmode] at haccepted
  have hstart := haccepted.trans (startSenderConnection_eq hf.symm)
  rw [tx_setSlot_answer] at hstart
  have hholds := newSender_holds .connection src dst prio pgn payload (beginCommand now s).clock
  by_cases hok : (tx f (beginCommand now s)).1 = .ok
  · rw [if_pos hok] at hstart
    refine ⟨_, hstart, fun _ => ?_, absurd hok⟩
    refine ⟨rfl, rfl, trace_of_sent_start hok i _, ⟨_, slotAt_started hi .., hholds.readBytes, ?_, ?_⟩, ?_⟩
    · exact fun a ha => hholds.read_eq_none ha
    · simp [afterRts, newSender, newSession]
    · exact fun j hj => slotAt_started_other hj ..
  · rw [if_neg hok] at hstart
    refine ⟨_, hstart, (absurd · hok), fun _ => ?_⟩
    exact ⟨rfl, by simp, slots_of_failed_start hi _ _ f, trace_of_failed_start ..⟩

/-- Settles O26: the new sender's START by the answer to its BAM. -/
theorem sendStartsABroadcastSession : Obligations.SendStartsABroadcastSession := by
  rintro now src prio pgn payload s s0 i f rfl hmin hmax hsrc hfree hi hf
  have hmode : senderMode 0xFF = .broadcast := if_pos rfl
  have haccepted := (exec_send now src 0xFF prio pgn payload s).trans (sendRule_of_accepted hmin hmax hsrc hfree hi)
  rw [hmode] at haccepted
  have hstart := haccepted.trans (startSenderBroadcast_eq hf.symm)
  rw [tx_setSlot_answer] at hstart
  have hholds := newSender_holds .broadcast src 0xFF prio pgn payload (beginCommand now s).clock
  by_cases hok : (tx f (beginCommand now s)).1 = .ok
  · rw [if_pos hok] at hstart
    refine ⟨_, hstart, fun _ => ?_, absurd hok⟩
    refine ⟨rfl, rfl, trace_of_sent_start hok i _, ⟨_, slotAt_started hi .., hholds.readBytes, ?_, rfl⟩, ?_⟩
    · exact fun a ha => hholds.read_eq_none ha
    · exact fun j hj => slotAt_started_other hj ..
  · rw [if_neg hok] at hstart
    refine ⟨_, hstart, (absurd · hok), fun _ => ?_⟩
    exact ⟨rfl, by simp, slots_of_failed_start hi _ _ f, trace_of_failed_start ..⟩

/-! ### Received RTS and BAM (43_session_table.md R240, R241) -/

theorem exec_cmRts (now : Millis) (sa da : Addr) (len np : Nat) (pgn : Pgn) (s : State) :
    exec (.cmRts now sa da len np pgn) s = fromSource sa (rxRts sa da len np pgn) (beginCommand now s) := rfl

theorem exec_cmBam (now : Millis) (sa da : Addr) (len np : Nat) (pgn : Pgn) (s : State) :
    exec (.cmBam now sa da len np pgn) s = fromSource sa (rxBam sa da len np pgn) (beginCommand now s) := rfl

theorem fromSource_of_ne {sa : Addr} (h : sa ≠ 0xFF) (rule : State → Host.Outcome State Fault Refusal) (s : State) :
    fromSource sa rule s = rule s :=
  if_neg h

section
variable {sa da : Addr} {len np : Nat} {pgn : Pgn} {s : State} {i : Nat}

theorem validLength_eq_true (hmin : 9 ≤ len) (hmax : len ≤ 1785) (hnp : np = numPacketsOf len) :
    validLength len np = true :=
  decide_eq_true ⟨hmin, hmax, hnp⟩

/-- An RTS that passes its checks starts the receiver it allocates. -/
theorem rxRts_of_accepted (hda : da ≠ 0xFF) (hvalid : validLength len np = true)
    (hfree : lookup sa da .receiver s = none) (hrx : len ≤ s.cfg.maxRxLen) (hi : alloc s = some i) :
    rxRts sa da len np pgn s =
      startReceiverConnection i (newSession .receiver .connection sa da s.cfg.replyPrio pgn len np s.clock)
        (setSlot i (some (newSession .receiver .connection sa da s.cfg.replyPrio pgn len np s.clock)) s) := by
  rw [rxRts, if_neg (by simpa [hvalid] using hda), hfree, if_neg (by simp), if_neg hrx.not_gt, hi]

/-- A BAM that passes its checks starts the receiver it allocates. -/
theorem rxBam_of_accepted (hvalid : validLength len np = true) (hfree : lookup sa 0xFF .receiver s = none)
    (hrx : len ≤ s.cfg.maxRxLen) (hi : alloc s = some i) :
    rxBam sa 0xFF len np pgn s =
      startReceiverBroadcast i (newSession .receiver .broadcast sa 0xFF s.cfg.replyPrio pgn len np s.clock)
        (setSlot i (some (newSession .receiver .broadcast sa 0xFF s.cfg.replyPrio pgn len np s.clock)) s) := by
  rw [rxBam, if_neg (by simp [hvalid]), hfree, if_neg (by simp), if_neg hrx.not_gt, hi]

end

/-- Settles O29: the new receiver's START by the answer to its CTS. -/
theorem rtsStartsAReceiver : Obligations.RtsStartsAReceiver := by
  rintro now sa da len np pgn s s0 i f rfl hsa hda hmin hmax hnp hfree hrx hi hf
  have haccepted := (exec_cmRts now sa da len np pgn s).trans ((fromSource_of_ne hsa ..).trans
    (rxRts_of_accepted hda (validLength_eq_true hmin hmax hnp) hfree hrx hi))
  have hstart := haccepted.trans (startReceiverConnection_eq hf.symm)
  rw [tx_setSlot_answer] at hstart
  by_cases hok : (tx f (beginCommand now s)).1 = .ok
  · rw [if_pos hok] at hstart
    refine ⟨_, hstart, by simp, fun _ => ?_, absurd hok⟩
    exact ⟨rfl, trace_of_sent_start hok i _, slotAt_started hi .., fun j hj => slotAt_started_other hj ..⟩
  · rw [if_neg hok] at hstart
    refine ⟨_, hstart, by simp, (absurd · hok), fun _ => ?_⟩
    exact ⟨rfl, slots_of_failed_start hi _ _ f, trace_of_failed_start ..⟩

/-- Settles O31: the slot just allocated is written once more, and nothing else happens. -/
theorem bamStartsAReceiver : Obligations.BamStartsAReceiver := by
  rintro now sa len np pgn s s0 i rfl hsa hmin hmax hnp hfree hrx hi
  have hstart := (exec_cmBam now sa 0xFF len np pgn s).trans ((fromSource_of_ne hsa ..).trans
    (rxBam_of_accepted (validLength_eq_true hmin hmax hnp) hfree hrx hi))
  refine ⟨_, hstart, rfl, beginCommand_slotOut now s, rfl, ?_, fun j hj => ?_⟩
  · exact slotAt_setSlot_same (by simpa using (alloc_spec hi).1) _
  · exact (slotAt_setSlot_other hj _).trans (slotAt_setSlot_other hj _)

end Sys2Proof.Machine
end

section
/-! The invariant across the envelope (43_session_table.md R235), and the one slot of a key under it (R230, R231). -/

namespace Sys2Proof.Machine

/-! ### The envelope keeps the invariant -/

/-- A later clock keeps what holds of a session: only `created` is compared with it. -/
theorem SessionInv.of_later {cfg : Config} {clock clock' : Millis} {σ : Session} (h : SessionInv cfg clock σ)
    (hle : clock ≤ clock') : SessionInv cfg clock' σ := by
  obtain ⟨hstate, hlen, hprog, hbuf, ⟨hdeadline, hnextTx, hcreated⟩, haddr⟩ := h
  exact ⟨hstate, hlen, hprog, hbuf, ⟨hdeadline, hnextTx, hcreated.trans hle⟩, haddr⟩

/-- Freeing a slot takes sessions away and moves none. -/
theorem filterMap_set_none_sublist (l : List (Option Session)) (i : Nat) :
    ((l.set i none).filterMap id).Sublist (l.filterMap id) := by
  induction l generalizing i with
  | nil => simp
  | cons x xs ih =>
    cases i with
    | zero => cases x <;> simp
    | succ i =>
      cases x with
      | none => exact ih i
      | some σ => exact (ih i).cons_cons σ

theorem Inv.abort {s : State} (h : Inv s) (i : Nat) (σ : Session) (ev : AbortEvent) : Inv (abort i σ ev s) where
  legal := by simpa using h.legal
  size := by simpa using h.size
  sessions τ hτ := by simpa using h.sessions τ (mem_validSessions_abort hτ)
  keys := by
    refine List.Nodup.sublist (List.Sublist.map _ ?_) h.keys
    rw [validSessions, abort_slots]
    exact filterMap_set_none_sublist s.slots i

theorem Inv.beginCommand {s : State} (h : Inv s) (now : Millis) : Inv (beginCommand now s) :=
  beginCommand_keeps (fun i σ ev _ hs _ => hs.abort i σ ev) now s
    ⟨h.legal, h.size, fun σ hσ => (h.sessions σ hσ).of_later (le_max_left ..), h.keys⟩

/-! ### The one slot of a key -/

section
variable {s : State} {i j : Nat} {σ τ : Session}

theorem Inv.sessionInv (h : Inv s) (hσ : slotAt s i = some σ) : SessionInv s.cfg s.clock σ :=
  h.sessions σ ((mem_validSessions_iff s σ).2 ⟨i, hσ⟩)

theorem Inv.key_ne_of_lt (h : Inv s) (hσ : slotAt s i = some σ) (hτ : slotAt s j = some τ) (hij : i < j) :
    sessionKey σ ≠ sessionKey τ := by
  have hkeys := h.keys
  rw [List.Nodup, List.pairwise_map, validSessions, List.pairwise_filterMap, List.pairwise_iff_getElem] at hkeys
  obtain ⟨hi, hσ'⟩ := List.getElem?_eq_some_iff.1 ((slotAt_eq_some_iff s i σ).1 hσ)
  obtain ⟨hj, hτ'⟩ := List.getElem?_eq_some_iff.1 ((slotAt_eq_some_iff s j τ).1 hτ)
  exact hkeys i j hi hj hij σ hσ' τ hτ'

/-- R37 (b), by slots: two valid slots with the same key are one slot. -/
theorem Inv.slot_unique (h : Inv s) (hσ : slotAt s i = some σ) (hτ : slotAt s j = some τ)
    (hkey : sessionKey σ = sessionKey τ) : i = j := by
  rcases lt_trichotomy i j with hlt | heq | hgt
  · exact absurd hkey (h.key_ne_of_lt hσ hτ hlt)
  · exact heq
  · exact absurd hkey.symm (h.key_ne_of_lt hτ hσ hgt)

theorem lookup_ne_none (hσ : slotAt s i = some σ) : lookup σ.src σ.dst σ.role s ≠ none := by
  intro hnone
  have hmem : some σ ∈ s.slots := List.mem_of_getElem? ((slotAt_eq_some_iff s i σ).1 hσ)
  have hkey : hasKey σ.src σ.dst σ.role (some σ) = true := (hasKey_eq_true_iff ..).2 ⟨σ, rfl, rfl, rfl, rfl⟩
  exact Bool.false_ne_true ((List.findIdx?_eq_none_iff.1 hnone _ hmem).symm.trans hkey)

/-- Under the invariant lookup of a valid slot's key gives that slot. -/
theorem Inv.lookup_eq_some (h : Inv s) (hσ : slotAt s i = some σ) : lookup σ.src σ.dst σ.role s = some i := by
  obtain ⟨j, hj⟩ := Option.ne_none_iff_exists'.1 (lookup_ne_none hσ)
  obtain ⟨τ, hτ, hsrc, hdst, hrole⟩ := lookup_spec hj
  rw [hj, h.slot_unique hτ hσ (by simp only [sessionKey, hsrc, hdst, hrole])]

end

end Sys2Proof.Machine
end

section
/-! A received DT at the receiver of its pair (43_session_table.md R246): O38 (42_session_fsm.md R179), O39 (R180, R181)
and O40 (R182). -/

namespace Sys2Proof.Machine

/-! ### What the invariant says of a receiver -/

theorem wf_of_bufferOk {σ : Session} (h : bufferOk σ) : Memory.wf σ.buf := by
  have hrising : (σ.buf.map Prod.fst).Pairwise (· < ·) := h ▸ List.pairwise_lt_range
  exact List.pairwise_map.1 hrising

section
variable {cfg : Config} {clock : Millis} {σ : Session}

theorem takesDt_of_sessionInv (h : SessionInv cfg clock σ) (hrole : σ.role = .receiver) : takesDt σ = true := by
  obtain ⟨hstate, -⟩ := h
  rw [hrole] at hstate
  rw [takesDt, hrole]
  revert hstate
  cases σ.mode <;> cases σ.state <;> decide

/-- A receiver always expects a segment of its message (R37 (d)): only a sender awaits the end. -/
theorem nextSeq_le_numPackets_of_receiver (h : SessionInv cfg clock σ) (hrole : σ.role = .receiver) :
    σ.nextSeq ≤ σ.numPackets := by
  obtain ⟨hstate, -, ⟨-, -, -, -, -, hnext, -⟩, -⟩ := h
  refine hnext fun hawaiting => ?_
  rw [hrole, hawaiting] at hstate
  revert hstate
  cases σ.mode <;> decide

end

/-! ### The rule at the slot (43_session_table.md R246) -/

theorem exec_dt (now : Millis) (sa da : Addr) (seq : Nat) (p : List Byte) (s : State) :
    exec (.dt now sa da seq p) s = fromSource sa (rxDt sa da seq p) (beginCommand now s) := rfl

/-- Under the invariant a DT reaches the receiver of its pair. -/
theorem exec_dt_at_receiver {now : Millis} {seq : Nat} {p : List Byte} {s : State} {i : Nat} {σ : Session}
    (hinv : Inv s) (hsrc : σ.src ≠ 0xFF) (hσ : slotAt (beginCommand now s) i = some σ) (hrole : σ.role = .receiver) :
    exec (.dt now σ.src σ.dst seq p) s = dtAtSlot seq p i σ (beginCommand now s) := by
  have hlookup := (hinv.beginCommand now).lookup_eq_some hσ
  rw [hrole] at hlookup
  rw [exec_dt, fromSource_of_ne hsrc, rxDt, hlookup]
  simp only [hσ]

section
variable {i : Nat} {σ τ : Session} {s : State} {seq : Nat} {p : List Byte}

theorem dtAtSlot_of_other (htakes : takesDt σ = true) (hseq : seq ≠ σ.nextSeq) :
    dtAtSlot seq p i σ s = ret .sequenceError (abort i σ .sequence s) := by
  rw [dtAtSlot, if_pos htakes, reasm_of_other hseq]
  rfl

theorem dtAtSlot_of_accept (htakes : takesDt σ = true) (hreasm : reasm σ seq p = some (.accept, τ)) :
    dtAtSlot seq p i σ s = ret .ok (setSlot i (some (arm s.clock s.cfg.t1 { τ with state := .receivingData })) s) := by
  rw [dtAtSlot, if_pos htakes, hreasm]
  rfl

theorem dtAtSlot_of_complete_broadcast (htakes : takesDt σ = true) (hreasm : reasm σ seq p = some (.complete, τ))
    (hmode : τ.mode = .broadcast) : dtAtSlot seq p i σ s = finishOk i τ s := by
  rw [dtAtSlot, if_pos htakes, hreasm]
  simp only [hmode, dtCompleteBroadcast]

theorem dtAtSlot_of_complete_connection (htakes : takesDt σ = true) (hreasm : reasm σ seq p = some (.complete, τ))
    (hmode : τ.mode = .connection) : dtAtSlot seq p i σ s = dtCompleteConnection i τ s := by
  rw [dtAtSlot, if_pos htakes, hreasm]
  simp only [hmode]

end

/-- Settles O40: REASM rejects the segment, and the abort's trace and slots are the laws'. -/
theorem wrongDtAbortsTheReceiver : Obligations.WrongDtAbortsTheReceiver := by
  rintro now sa da seq p s s0 i σ f hinv rfl hsa hσ hrole rfl rfl hseq rfl
  have htakes := takesDt_of_sessionInv ((hinv.beginCommand now).sessionInv hσ) hrole
  have hexec := (exec_dt_at_receiver hinv hsa hσ hrole (p := p)).trans (dtAtSlot_of_other htakes hseq)
  refine ⟨_, hexec, rfl, (slotAt_abort ..).trans (if_pos rfl), fun j hj => (slotAt_abort ..).trans (if_neg hj), ?_⟩
  rw [← cmf_of_receiver hrole]
  exact abort_trace_of_reasonSent rfl i σ

/-- Settles O38: what REASM stores is O12's; the rest is the slot's new deadline and state. -/
theorem dtStoresTheNextSegment : Obligations.DtStoresTheNextSegment := by
  rintro now sa da p s s0 i σ hinv rfl hsa hp hσ hrole rfl rfl hlt
  have hσinv := (hinv.beginCommand now).sessionInv hσ
  have htakes := takesDt_of_sessionInv hσinv hrole
  obtain ⟨-, ⟨hmin, hmax, hnp, -⟩, ⟨hfirst, -⟩, hbuf, -⟩ := hσinv
  obtain ⟨τ, hreasm, hτ, hread, hkeep⟩ := (reassemblerTakesOnlyTheNextSegment σ σ.nextSeq p hmin hmax hnp
    (wf_of_bufferOk hbuf) hp hfirst hlt.le).1 rfl
  have hfull : min 7 (σ.totalLen - 7 * (σ.nextSeq - 1)) = 7 := by
    have := numPacketsOf_bounds σ.totalLen
    omega
  rw [hfull] at hread hkeep
  rw [if_neg hlt.ne] at hreasm
  have hexec := (exec_dt_at_receiver hinv hsa hσ hrole).trans (dtAtSlot_of_accept htakes hreasm)
  refine ⟨_, _, hexec, rfl, rfl, slotAt_setSlot_same (lt_of_slotAt hσ) _, ?_, ?_, hkeep, fun j hj => ?_⟩
  · rw [hτ]
    rfl
  · rwa [List.take_of_length_le hp.le] at hread
  · exact slotAt_setSlot_other hj _

/-! ### The last segment (42_session_fsm.md R180, R181) -/

/-- Bytes written right behind those read from offset 0 on are read after them. -/
theorem Memory.readBytes_writeBytes_append {m : Memory} {off : Nat} {old : List Byte} (hwf : Memory.wf m)
    (hold : Memory.readBytes m 0 off = some old) (bytes : List Byte) :
    Memory.readBytes (Memory.writeBytes m off bytes) 0 (off + bytes.length) = some (old ++ bytes) := by
  obtain ⟨hlen, hbytes⟩ := (Memory.readBytes_eq_some_iff ..).1 hold
  refine (Memory.readBytes_eq_some_iff ..).2 ⟨by rw [List.length_append, hlen], fun k hk => ?_⟩
  rw [Nat.zero_add, Memory.read_writeBytes hwf]
  split_ifs with hnew
  · rw [List.getElem?_append_right (hlen ▸ hnew.1), hlen]
  · rw [List.getElem?_append_left (by omega), ← hbytes k (by omega), Nat.zero_add]

section
variable {i : Nat} {σ : Session} {s : State} {f : Frame} {d : List Byte}

theorem finishOk_of_read (hrole : σ.role = .receiver) (hd : Memory.readBytes σ.buf 0 σ.totalLen = some d) :
    finishOk i σ s = ret .ok (free i (emit (endReport i σ .done .none none .none (some d)) s)) := by
  rw [finishOk, finish_receiver hrole hd]

/-- The receiver whose EOM_ACK goes out. -/
def beforeEomAck (σ : Session) : Session := disarm { σ with state := .receivingData }

theorem dtCompleteConnection_eq
    (hf : cmf s.cfg (beforeEomAck σ)
      (encEomAck (beforeEomAck σ).totalLen (beforeEomAck σ).numPackets (beforeEomAck σ).pgn) = f) :
    dtCompleteConnection i σ s =
      if (tx f s).1 = .ok then finishOk i (beforeEomAck σ) (tx f s).2
      else ret .ioError (abort i (beforeEomAck σ) .ioError (tx f s).2) := by
  rw [dtCompleteConnection, ← beforeEomAck]
  simp only [hf]
  split_ifs with hok
  · rw [stx_of_ok i (beforeEomAck σ) hok]
  · rw [stx_of_failed i (beforeEomAck σ) hok]

end

/-- Storing the last segment after those before it completes the message: its fill bytes are not part of it. -/
theorem readBytes_storeSegment_last {σ : Session} {p old : List Byte} (hwf : Memory.wf σ.buf)
    (hold : Memory.readBytes σ.buf 0 (segOff σ.nextSeq) = some old) (hoff : segOff σ.nextSeq < σ.totalLen)
    (hlast : σ.nextSeq = numPacketsOf σ.totalLen) (hp : p.length = 7) :
    Memory.readBytes (storeSegment σ p).buf 0 σ.totalLen = some (old ++ p.take (σ.totalLen - old.length)) := by
  have hlen : old.length = segOff σ.nextSeq := ((Memory.readBytes_eq_some_iff ..).1 hold).1
  have htail : σ.totalLen ≤ segOff σ.nextSeq + 7 := by
    have hnp := numPacketsOf_bounds σ.totalLen
    rw [segOff_eq]
    omega
  have hseg : segLen σ.totalLen σ.nextSeq = σ.totalLen - old.length := by
    rw [segLen_eq]
    omega
  have hfull : segOff σ.nextSeq + (p.take (σ.totalLen - old.length)).length = σ.totalLen := by
    rw [List.length_take]
    omega
  have happend := Memory.readBytes_writeBytes_append hwf hold (p.take (σ.totalLen - old.length))
  rw [hfull] at happend
  rwa [storeSegment, hseg]

/-- Settles O39: the bytes delivered are those held before and those of the last segment, in all modes that deliver. -/
theorem lastDtDeliversTheMessage : Obligations.LastDtDeliversTheMessage := by
  rintro now sa da p old s s0 i σ f hinv rfl hsa hp hσ hrole rfl rfl hlast hold hf
  have hσinv := (hinv.beginCommand now).sessionInv hσ
  have htakes := takesDt_of_sessionInv hσinv hrole
  obtain ⟨-, ⟨hmin, -, hnp, -⟩, -, hbuf, -⟩ := hσinv
  have hpos : 0 < σ.totalLen := Nat.lt_of_lt_of_le (by decide) hmin
  have hoff : segOff σ.nextSeq < σ.totalLen := segOff_lt_of_le_numPacketsOf hpos (hlast.trans hnp).le
  have hreasm := reasm_of_next hoff.le hlast.le p
  rw [if_pos hlast] at hreasm
  have hread : Memory.readBytes (storeSegment σ p).buf 0 σ.totalLen =
      some (old ++ p.take (σ.totalLen - old.length)) :=
    readBytes_storeSegment_last (wf_of_bufferOk hbuf) hold hoff (by rw [hlast, hnp]) hp
  have hexec := exec_dt_at_receiver hinv hsa hσ hrole (seq := σ.nextSeq) (p := p)
  cases hmode : σ.mode with
  | broadcast =>
    have ht := (hexec.trans (dtAtSlot_of_complete_broadcast htakes hreasm hmode)).trans (finishOk_of_read hrole hread)
    refine ⟨_, ht, slotAt_free_same .., fun j hj => slotAt_free_other hj, fun _ => ⟨rfl, rfl⟩, nofun, nofun⟩
  | connection =>
    have hcomplete := hexec.trans (dtAtSlot_of_complete_connection htakes hreasm hmode)
    rw [← cmf_of_receiver hrole] at hf
    have hanswer := hcomplete.trans (dtCompleteConnection_eq hf.symm)
    by_cases hok : (tx f (beginCommand now s)).1 = .ok
    · rw [if_pos hok] at hanswer
      exact ⟨_, hanswer.trans (finishOk_of_read hrole hread), slotAt_free_same ..,
        fun j hj => (slotAt_free_other hj).trans (slotAt_tx ..), nofun,
        fun _ _ => ⟨rfl, trace_of_last_frame hok i _⟩, fun _ hfailed => absurd hok hfailed⟩
    · rw [if_neg hok] at hanswer
      exact ⟨_, hanswer, (slotAt_abort ..).trans (if_pos rfl),
        fun j hj => ((slotAt_abort ..).trans (if_neg hj)).trans (slotAt_tx ..), nofun,
        fun _ hsent => absurd hsent hok, fun _ _ => ⟨rfl, trace_of_failed_tx ..⟩⟩

end Sys2Proof.Machine
end

section
/-! The owners of a CM frame (43_session_table.md R232), a CTS at the sender that waits for it and O33
(42_session_fsm.md R169–R171), and a peer's Abort and O36 (R183). -/

namespace Sys2Proof.Machine

/-! ### Owners (43_session_table.md R232) -/

section
variable {sa da : Addr} {pgn : Pgn} {s : State}

theorem ownsCm_eq_true_iff (v : Option Session) : ownsCm sa da pgn v = true ↔ ∃ σ, v = some σ ∧ σ.pgn = pgn ∧
    ((σ.role = .sender ∧ σ.src = da ∧ σ.dst = sa) ∨ (σ.role = .receiver ∧ σ.src = sa ∧ σ.dst = da)) := by
  cases v with
  | none => simp [ownsCm]
  | some σ => cases hrole : σ.role <;> simp [ownsCm, hrole, and_comm]

theorem mem_owners_iff (i : Nat) : i ∈ owners sa da pgn s ↔ ∃ σ, slotAt s i = some σ ∧ σ.pgn = pgn ∧
    ((σ.role = .sender ∧ σ.src = da ∧ σ.dst = sa) ∨ (σ.role = .receiver ∧ σ.src = sa ∧ σ.dst = da)) := by
  rw [owners, List.mem_filter, slotIndices, List.mem_range, ownsCm_eq_true_iff]
  exact ⟨And.right, fun h => ⟨let ⟨_, hσ, _⟩ := h; lt_of_slotAt hσ, h⟩⟩

theorem nodup_owners : (owners sa da pgn s).Nodup := List.nodup_range.filter _

end

/-! ### A CTS over its owners (43_session_table.md R242) -/

theorem exec_cmCts (now : Millis) (sa da : Addr) (n nextSeq : Nat) (pgn : Pgn) (s : State) :
    exec (.cmCts now sa da n nextSeq pgn) s = fromSource sa (rxCts sa da n nextSeq pgn) (beginCommand now s) := rfl

theorem awaitsCts_eq_true_iff (cfg : Config) (σ : Session) : awaitsCts cfg σ = true ↔
    (σ.role = .sender ∧ σ.mode = .connection ∧ σ.state = .rtsSent) ∧ cfg.waitCts = true := by
  simp [awaitsCts]

section
variable {n nextSeq i : Nat} {σ : Session} {s : State}

theorem rxCts_of_mem_owners {sa da : Addr} {pgn : Pgn} (h : i ∈ owners sa da pgn s) :
    rxCts sa da n nextSeq pgn s =
      ret ((owners sa da pgn s).foldl (ctsAt n nextSeq) (.ignored, s)).1
        ((owners sa da pgn s).foldl (ctsAt n nextSeq) (.ignored, s)).2 := by
  unfold rxCts
  split
  · next hnil => simp [hnil] at h
  · next o os hcons => rw [hcons]

/-- A CTS touches its one slot and no configuration. -/
theorem ctsAwaited_cfg : (ctsAwaited n nextSeq i σ s).2.cfg = s.cfg := by
  unfold ctsAwaited
  split_ifs
  · rfl
  · rfl
  · exact abort_cfg ..

theorem slotAt_ctsAwaited_other {j : Nat} (hj : j ≠ i) : slotAt (ctsAwaited n nextSeq i σ s).2 j = slotAt s j := by
  unfold ctsAwaited
  split_ifs
  · exact slotAt_setSlot_other hj _
  · exact slotAt_setSlot_other hj _
  · exact (slotAt_abort ..).trans (if_neg hj)

theorem ctsAt_of_awaiting (hσ : slotAt s i = some σ) (hawaits : awaitsCts s.cfg σ = true) (st : Status) :
    ctsAt n nextSeq (st, s) i = ctsAwaited n nextSeq i σ s := by
  simp [ctsAt, hσ, hawaits]

/-- The session in slot i, if any, does not await a CTS. -/
def IgnoresCts (s : State) (i : Nat) : Prop := ∀ τ, slotAt s i = some τ → awaitsCts s.cfg τ = false

theorem ctsAt_of_ignoring {acc : Status × State} (h : IgnoresCts acc.2 i) : ctsAt n nextSeq acc i = acc := by
  unfold ctsAt
  split
  · next τ hτ => rw [if_neg (by simp [h τ hτ])]
  · rfl

theorem foldl_ctsAt_of_ignoring {os : List Nat} {acc : Status × State} (h : ∀ o ∈ os, IgnoresCts acc.2 o) :
    os.foldl (ctsAt n nextSeq) acc = acc := by
  induction os with
  | nil => rfl
  | cons o os ih =>
    rw [List.foldl_cons, ctsAt_of_ignoring (h o List.mem_cons_self)]
    exact ih fun o' ho' => h o' (List.mem_cons_of_mem o ho')

/-- A CTS whose one waiting owner is slot i does there what `ctsAwaited` says, and nothing elsewhere. -/
theorem foldl_ctsAt_of_awaiting {os : List Nat} (hnodup : os.Nodup) (hi : i ∈ os) (hσ : slotAt s i = some σ)
    (hawaits : awaitsCts s.cfg σ = true) (hothers : ∀ o ∈ os, o ≠ i → IgnoresCts s o) (st : Status) :
    os.foldl (ctsAt n nextSeq) (st, s) = ctsAwaited n nextSeq i σ s := by
  induction os with
  | nil => cases hi
  | cons o os ih =>
    obtain ⟨ho, hnodup'⟩ := List.nodup_cons.1 hnodup
    rw [List.foldl_cons]
    by_cases hoi : o = i
    · subst hoi
      rw [ctsAt_of_awaiting hσ hawaits]
      refine foldl_ctsAt_of_ignoring fun o' ho' τ hτ => ?_
      have hne : o' ≠ o := fun heq => ho (heq ▸ ho')
      rw [slotAt_ctsAwaited_other hne] at hτ
      rw [ctsAwaited_cfg]
      exact hothers o' (List.mem_cons_of_mem o ho') hne τ hτ
    · rw [ctsAt_of_ignoring (hothers o List.mem_cons_self hoi)]
      exact ih hnodup' ((List.mem_cons.1 hi).resolve_left (Ne.symm hoi))
        fun o' ho' => hothers o' (List.mem_cons_of_mem o ho')

/-- Two senders that own the same CM frame have the same key, so under the invariant at most one owner waits. -/
theorem Inv.ignoresCts_of_other_owner {o : Nat} (h : Inv s) (hσ : slotAt s i = some σ) (hrole : σ.role = .sender)
    (ho : o ∈ owners σ.dst σ.src σ.pgn s) (hoi : o ≠ i) : IgnoresCts s o := by
  intro τ hτ
  by_contra hawaits
  obtain ⟨⟨hsender, -, -⟩, -⟩ := (awaitsCts_eq_true_iff s.cfg τ).1 (by simpa using hawaits)
  obtain ⟨τ', hτ', -, hkey⟩ := (mem_owners_iff o).1 ho
  obtain rfl := Option.some.inj (hτ.symm.trans hτ')
  rcases hkey with ⟨-, hsrc, hdst⟩ | ⟨hreceiver, -⟩
  · exact hoi (h.slot_unique hτ hσ (by simp only [sessionKey, hsrc, hdst, hsender, hrole]))
  · exact nomatch hsender.symm.trans hreceiver

/-- Under the invariant a CTS of a sender in RTS_SENT reaches that sender alone. -/
theorem rxCts_at_sender (h : Inv s) (hσ : slotAt s i = some σ) (hrole : σ.role = .sender)
    (hmode : σ.mode = .connection) (hstate : σ.state = .rtsSent) : rxCts σ.dst σ.src n nextSeq σ.pgn s =
      ret (ctsAwaited n nextSeq i σ s).1 (ctsAwaited n nextSeq i σ s).2 := by
  have hi : i ∈ owners σ.dst σ.src σ.pgn s := (mem_owners_iff i).2 ⟨σ, hσ, rfl, .inl ⟨hrole, rfl, rfl⟩⟩
  obtain ⟨-, -, ⟨-, -, -, -, -, -, hwait, -⟩, -⟩ := h.sessionInv hσ
  have hawaits := (awaitsCts_eq_true_iff s.cfg σ).2 ⟨⟨hrole, hmode, hstate⟩, hwait hstate⟩
  rw [rxCts_of_mem_owners hi, foldl_ctsAt_of_awaiting nodup_owners hi hσ hawaits
    fun o ho hoi => h.ignoresCts_of_other_owner hσ hrole ho hoi]

end

/-- Settles O33: only the waiting sender is touched, and there n and next select hold, grant or mismatch. -/
theorem ctsAtTheWaitingSender : Obligations.CtsAtTheWaitingSender := by
  rintro now sa da n nextSeq pgn s s0 i σ f hinv rfl hsa hσ hrole hmode hstate rfl rfl rfl rfl
  have hlt := lt_of_slotAt hσ
  have hexec := (exec_cmCts ..).trans ((fromSource_of_ne hsa ..).trans
    (rxCts_at_sender (n := n) (nextSeq := nextSeq) (hinv.beginCommand now) hσ hrole hmode hstate))
  refine ⟨_, hexec, fun j hj => slotAt_ctsAwaited_other hj, ?_, ?_, ?_⟩
  · intro hhold
    rw [ctsAwaited, if_pos hhold]
    exact ⟨rfl, rfl, slotAt_setSlot_same hlt _⟩
  · intro hn hgrant
    rw [ctsAwaited, if_neg hn, if_pos hgrant]
    exact ⟨rfl, rfl, slotAt_setSlot_same hlt _⟩
  · intro hn hmismatch
    rw [ctsAwaited, if_neg hn, if_neg hmismatch]
    have htrace := abort_trace_of_reasonSent (s := beginCommand now s) (ev := .sequence) rfl i σ
    rw [if_pos hmode] at htrace
    exact ⟨rfl, (slotAt_abort ..).trans (if_pos rfl), htrace⟩

/-! ### Frames and END items of a trace -/

theorem framesOf_append (a b : List TraceItem) : framesOf (a ++ b) = framesOf a ++ framesOf b := by
  induction a with
  | nil => rfl
  | cons x xs ih => cases x <;> simp [framesOf, ih]

@[simp] theorem framesOf_map_ended (es : List EndItem) : framesOf (es.map .ended) = [] := by
  induction es with
  | nil => rfl
  | cons e es ih => exact ih

@[simp] theorem endsOf_map_ended (es : List EndItem) : endsOf (es.map .ended) = es := by
  induction es with
  | nil => rfl
  | cons e es ih => exact congrArg (e :: ·) ih

/-! ### A peer's Abort over its owners (43_session_table.md R244) -/

theorem exec_cmAbort (now : Millis) (sa da : Addr) (reason : Byte) (pgn : Pgn) (s : State) :
    exec (.cmAbort now sa da reason pgn) s = fromSource sa (rxAbort sa da reason pgn) (beginCommand now s) := rfl

section
variable {sa da : Addr} {reason : Byte} {pgn : Pgn} {s : State}

theorem rxAbort_of_no_owner (h : owners sa da pgn s = []) : rxAbort sa da reason pgn s = ret .noSession s := by
  rw [rxAbort, h]

theorem rxAbort_of_owners (h : owners sa da pgn s ≠ []) : rxAbort sa da reason pgn s =
    ret .ok ((owners sa da pgn s).foldl (peerAbortAt reason) s) := by
  unfold rxAbort
  split
  · next hnil => exact absurd hnil h
  · next o os hcons => rw [hcons]

theorem slotAt_peerAbortAt (reason : Byte) (s : State) (i j : Nat) :
    slotAt (peerAbortAt reason s i) j = if j = i then none else slotAt s j := by
  unfold peerAbortAt
  split
  · exact slotAt_abort ..
  · next hnone =>
    split_ifs with hji
    · rw [hji, hnone]
    · rfl

theorem slotAt_foldl_peerAbortAt (reason : Byte) (os : List Nat) (s : State) (j : Nat) :
    slotAt (os.foldl (peerAbortAt reason) s) j = if j ∈ os then none else slotAt s j := by
  induction os generalizing s with
  | nil => simp
  | cons o os ih =>
    rw [List.foldl_cons, ih, slotAt_peerAbortAt]
    by_cases hjo : j = o <;> by_cases hjos : j ∈ os <;> simp [hjo, hjos]

/-- The END item of a session in slot i that a peer's Abort with this reason ended (30_encoding.md R95). -/
def peerAbortEnd (reason : Byte) (i : Nat) (σ : Session) : EndItem :=
  endItem i { σ with state := .aborted } .peerAbort (some reason) .none none

/-- How a session ended, as its END item tells (60_exceptions.md R272): all but the fields of its transfer. -/
def endSummary (e : EndItem) : Nat × SessState × Cause × Option Byte × AbortTx × Option (List Byte) :=
  (e.slot, e.outcome, e.cause, e.reason, e.abortTx, e.data)

/-- A peer's Abort sends no frame in either mode. -/
theorem peerAbortAt_trace {i : Nat} {σ : Session} (hσ : slotAt s i = some σ) :
    (peerAbortAt reason s i).trace = s.trace ++ [.ended (peerAbortEnd reason i σ)] := by
  have hsilent : abortFrameReason s.cfg σ (.peerAbort reason) = none := by
    by_cases hmode : σ.mode = .connection
    · exact abortFrameReason_of_connection hmode ..
    · exact abortFrameReason_of_not_connection hmode ..
  simp only [peerAbortAt, hσ, abort_trace, hsilent]
  rfl

/-- The items a peer's Abort appends over distinct valid slots: one END item per slot, in order. -/
theorem foldl_peerAbortAt_trace {os : List Nat} (hnodup : os.Nodup) (hvalid : ∀ o ∈ os, ∃ σ, slotAt s o = some σ) :
    ∃ es : List EndItem, (os.foldl (peerAbortAt reason) s).trace = s.trace ++ es.map .ended ∧
      es.map endSummary = os.map fun o => (o, .aborted, .peerAbort, some reason, .none, none) := by
  induction os generalizing s with
  | nil => exact ⟨[], by simp, rfl⟩
  | cons o os ih =>
    obtain ⟨ho, hnodup'⟩ := List.nodup_cons.1 hnodup
    obtain ⟨σ, hσ⟩ := hvalid o List.mem_cons_self
    have hvalid' : ∀ o' ∈ os, ∃ τ, slotAt (peerAbortAt reason s o) o' = some τ := fun o' ho' => by
      have hne : o' ≠ o := fun heq => ho (heq ▸ ho')
      rw [slotAt_peerAbortAt, if_neg hne]
      exact hvalid o' (List.mem_cons_of_mem o ho')
    obtain ⟨es, hes, hends⟩ := ih hnodup' hvalid'
    refine ⟨peerAbortEnd reason o σ :: es, ?_, congrArg (_ :: ·) hends⟩
    rw [List.foldl_cons, hes, peerAbortAt_trace hσ, List.append_assoc]
    rfl

end

/-- Settles O36: the fold over the owners frees each of them and appends one END item per owner, no frame. -/
theorem peerAbortEndsItsOwners : Obligations.PeerAbortEndsItsOwners := by
  rintro now sa da reason pgn s s0 rfl hsa
  have hexec := (exec_cmAbort now sa da reason pgn s).trans (fromSource_of_ne hsa ..)
  constructor
  · intro hnone
    exact hexec.trans (rxAbort_of_no_owner hnone)
  · intro howners
    obtain ⟨es, htrace, hends⟩ := foldl_peerAbortAt_trace (reason := reason) (nodup_owners (sa := sa) (da := da)
      (pgn := pgn) (s := beginCommand now s)) fun o ho => let ⟨σ, hσ, _⟩ := (mem_owners_iff o).1 ho; ⟨σ, hσ⟩
    refine ⟨_, hexec.trans (rxAbort_of_owners howners), rfl, fun i hi => ?_, fun i hi => ?_, ?_, ?_⟩
    · exact (slotAt_foldl_peerAbortAt ..).trans (if_pos hi)
    · exact (slotAt_foldl_peerAbortAt ..).trans (if_neg hi)
    · dsimp only
      rw [htrace, framesOf_append, framesOf_map_ended, List.append_nil]
    · dsimp only
      rw [htrace, endsOf_append, endsOf_map_ended, List.map_append]
      exact congrArg (_ ++ ·) hends

end Sys2Proof.Machine
end

section
/-! The visits of a POLL (43_session_table.md R247): each slot is served once, in a state that agrees on it with the
envelope's. O46 (42_session_fsm.md R172), O47 (R173) and O48 (R176). -/

namespace Sys2Proof.Machine

/-! ### What one visit leaves unchanged -/

section
variable {i : Nat} {s t : State}

theorem Serviced.cfg_eq (h : Serviced i s t) : t.cfg = s.cfg := by
  cases h <;> simp

theorem Serviced.clock_eq (h : Serviced i s t) : t.clock = s.clock := by
  cases h <;> simp

theorem Serviced.slotAt_other {j : Nat} (h : Serviced i s t) (hj : j ≠ i) : slotAt t j = slotAt s j := by
  cases h with
  | idle => rfl
  | failed σ f => rw [slotAt_abort, if_neg hj, slotAt_tx]
  | advanced σ τ f => rw [slotAt_setSlot_other hj, slotAt_tx]
  | finished σ f => rw [slotAt_free_other hj, slotAt_emit, slotAt_tx]

theorem Serviced.trace_subset (h : Serviced i s t) : s.trace ⊆ t.trace := by
  cases h with
  | idle => exact fun _ hx => hx
  | failed σ f =>
    rw [trace_of_failed_tx]
    exact List.subset_append_left ..
  | advanced σ τ f =>
    rw [setSlot_trace, tx_trace]
    exact List.subset_append_left ..
  | finished σ f _ _ hr =>
    rw [trace_of_last_frame hr]
    exact List.subset_append_left ..

end

/-! ### The frame that is due (42_session_fsm.md R172, R173, R176) -/

theorem Memory.exists_read_of_mem {m : Memory} {a : Nat} (h : a ∈ m.map Prod.fst) : ∃ v, Memory.read m a = some v := by
  induction m with
  | nil => cases h
  | cons x rest ih =>
    obtain ⟨k, w⟩ := x
    rw [Memory.read]
    split_ifs with hk
    · exact ⟨w, rfl⟩
    · exact ih ((List.mem_cons.1 h).resolve_left (Ne.symm hk))

theorem Memory.exists_readBytes {m : Memory} {off n : Nat}
    (h : ∀ a, off ≤ a → a < off + n → a ∈ m.map Prod.fst) : ∃ bytes, Memory.readBytes m off n = some bytes := by
  induction n generalizing off with
  | zero => exact ⟨[], rfl⟩
  | succ n ih =>
    obtain ⟨b, hb⟩ := Memory.exists_read_of_mem (h off le_rfl (by omega))
    obtain ⟨bs, hbs⟩ := ih (off := off + 1) fun a hlo hhi => h a (by omega) (by omega)
    exact ⟨b :: bs, by rw [Memory.readBytes, hb, hbs]⟩

section
variable {cfg : Config} {clock : Millis} {σ : Session}

/-- A sender's whole payload is readable (R37 (e)). -/
theorem exists_memRead_of_sender (h : bufferOk σ) (hrole : σ.role = .sender) :
    ∃ payload, memRead σ 0 σ.totalLen = some payload := by
  have hwritten : writtenBytes σ = σ.totalLen := by rw [writtenBytes, hrole]
  refine Memory.exists_readBytes fun a _ ha => ?_
  rw [show σ.buf.map Prod.fst = List.range σ.totalLen from hwritten ▸ h, List.mem_range]
  omega

/-- A sender in SENDING_DATA has a next segment to send, and its bytes are written. -/
theorem exists_frag_of_sending (h : SessionInv cfg clock σ) (hrole : σ.role = .sender)
    (hstate : σ.state = .sendingData) : ∃ d, frag σ σ.nextSeq = some d := by
  obtain ⟨-, ⟨hmin, -, hnp, -⟩, ⟨-, -, hwindow, hnext, -⟩, hbuf, -⟩ := h
  obtain ⟨payload, hread⟩ := exists_memRead_of_sender hbuf hrole
  have hpos : 0 < σ.totalLen := Nat.lt_of_lt_of_le (by decide) hmin
  have hle : σ.nextSeq ≤ numPacketsOf σ.totalLen := hnp ▸ (hnext hstate).trans hwindow
  exact ⟨_, frag_of_memRead hread (segOff_lt_of_le_numPacketsOf hpos hle).le⟩

/-- The modes and states a sender can be in between commands (R37 (a)). -/
theorem sender_cases (h : SessionInv cfg clock σ) (hrole : σ.role = .sender) :
    (σ.mode = .connection ∧ (σ.state = .sendingData ∨ σ.state = .awaitingEom ∨ σ.state = .rtsSent)) ∨
      (σ.mode = .broadcast ∧ σ.state = .sendingData) := by
  obtain ⟨hstate, -⟩ := h
  rw [hrole] at hstate
  revert hstate
  cases σ.mode <;> cases σ.state <;> decide

theorem sender_of_awaitingEom (h : SessionInv cfg clock σ) (hstate : σ.state = .awaitingEom) :
    σ.role = .sender ∧ σ.mode = .connection := by
  obtain ⟨hallowed, -⟩ := h
  rw [hstate] at hallowed
  revert hallowed
  cases σ.role <;> cases σ.mode <;> decide

theorem sendingData_of_broadcast (h : SessionInv cfg clock σ) (hrole : σ.role = .sender)
    (hmode : σ.mode = .broadcast) : σ.state = .sendingData := by
  rcases sender_cases h hrole with ⟨hconnection, -⟩ | ⟨-, hstate⟩
  · exact nomatch hmode.symm.trans hconnection
  · exact hstate

/-- In SENDING_DATA no deadline is armed, so only the end of a window arms one (42_session_fsm.md R172). -/
theorem afterDt_eq (h : SessionInv cfg clock σ) (hstate : σ.state = .sendingData) : afterDt cfg clock σ = { σ with
    nextSeq := σ.nextSeq + 1
    state := if σ.nextSeq = σ.numPackets then .awaitingEom
      else if σ.nextSeq = σ.windowEnd then .rtsSent else .sendingData
    deadline := if σ.nextSeq ≠ σ.numPackets ∧ σ.nextSeq = σ.windowEnd then some (clock + cfg.t3) else none } := by
  obtain ⟨-, -, ⟨-, -, hwindow, hnext, -⟩, -, ⟨harmed, -⟩, -⟩ := h
  have hle := hnext hstate
  have hdeadline : σ.deadline = none := by simpa [hstate, timedState] using harmed
  have hlast : σ.nextSeq + 1 > σ.numPackets ↔ σ.nextSeq = σ.numPackets := by omega
  have hend : σ.nextSeq + 1 > σ.windowEnd ↔ σ.nextSeq = σ.windowEnd := by omega
  simp only [afterDt, hlast, hend]
  by_cases hnp : σ.nextSeq = σ.numPackets
  · simp [hnp, hdeadline]
  by_cases hwe : σ.nextSeq = σ.windowEnd
  · rw [if_neg hnp, if_pos hwe, if_neg hnp, if_pos hwe, if_pos ⟨hnp, hwe⟩]
    rfl
  · simp [hnp, hwe, hdeadline, hstate]

end

/-! ### One visit, by the answer to its frame -/

section
variable {i : Nat} {σ : Session} {s : State} {f : Frame} {d : Data8}

theorem serviceSending_eq (hd : frag σ σ.nextSeq = some d) (hf : dtf s.cfg σ d = f) : serviceSending i σ s =
    .next (if (tx f s).1 = .ok then setSlot i (some (afterDt s.cfg s.clock σ)) (tx f s).2
      else abort i σ .ioError (tx f s).2) := by
  subst hf
  simp only [serviceSending, hd]
  split_ifs with hok
  · simp only [stx_of_ok i σ hok, tx_cfg, tx_clock]
  · simp only [stx_of_failed i σ hok]

theorem serviceAwaitingEom_eq (hrole : σ.role = .sender)
    (hf : cmf s.cfg σ (encEomAck σ.totalLen σ.numPackets σ.pgn) = f) : serviceAwaitingEom i σ s =
    .next (if (tx f s).1 = .ok then free i (emit (endReport i σ .done .none none .none none) (tx f s).2)
      else abort i σ .ioError (tx f s).2) := by
  subst hf
  simp only [serviceAwaitingEom]
  split_ifs with hok
  · simp only [stx_of_ok i σ hok, finish_sender hrole]
  · simp only [stx_of_failed i σ hok]

theorem sendBamDt_eq (hrole : σ.role = .sender) (hd : frag σ σ.nextSeq = some d) (hf : dtf s.cfg σ d = f) :
    sendBamDt i σ s = .next (if (tx f s).1 = .ok then
        if σ.nextSeq + 1 > σ.numPackets then free i (emit (endReport i σ .done .none none .none none) (tx f s).2)
        else setSlot i (some (afterBamDt s.cfg s.clock σ)) (tx f s).2
      else abort i σ .ioError (tx f s).2) := by
  subst hf
  simp only [sendBamDt, hd]
  split_ifs with hok hlast
  · rw [stx_of_ok i σ hok]
    exact (if_pos hlast).trans (finish_sender (σ := afterBamDt _ _ σ) hrole)
  · rw [stx_of_ok i σ hok]
    refine (if_neg hlast).trans ?_
    rw [tx_cfg, tx_clock]
  · simp only [stx_of_failed i σ hok]

theorem serviceSlot_of_sender (hσ : slotAt s i = some σ) (hrole : σ.role = .sender) :
    serviceSlot i s = serviceSender i σ s := by
  simp only [serviceSlot, hσ, hrole]

theorem serviceSlot_of_receiver (hσ : slotAt s i = some σ) (hrole : σ.role = .receiver) :
    serviceSlot i s = .next s := by
  simp only [serviceSlot, hσ, hrole]

theorem serviceSender_of_sending (hmode : σ.mode = .connection) (hstate : σ.state = .sendingData) :
    serviceSender i σ s = serviceSending i σ s := by
  rw [serviceSender, hmode, hstate]

theorem serviceSender_of_awaitingEom (hmode : σ.mode = .connection) (hstate : σ.state = .awaitingEom) :
    serviceSender i σ s = serviceAwaitingEom i σ s := by
  rw [serviceSender, hmode, hstate]

theorem serviceSender_of_rtsSent (hmode : σ.mode = .connection) (hstate : σ.state = .rtsSent) :
    serviceSender i σ s = .next s := by
  rw [serviceSender, hmode, hstate]

theorem serviceSender_of_broadcast {due : Millis} (hmode : σ.mode = .broadcast) (hstate : σ.state = .sendingData)
    (hdue : σ.nextTx = some due) :
    serviceSender i σ s = if s.clock < due then .next s else sendBamDt i σ s := by
  rw [serviceSender, hmode, hstate]
  simp only [serviceBroadcast, hdue]

/-- Under the invariant of the session it finds, a visit completes. -/
theorem serviceSlot_completes (h : ∀ σ, slotAt s i = some σ → SessionInv s.cfg s.clock σ) :
    ∃ t, serviceSlot i s = .next t := by
  cases hσ : slotAt s i with
  | none => exact ⟨s, by simp only [serviceSlot, hσ]⟩
  | some σ =>
    have hinv := h σ hσ
    cases hrole : σ.role with
    | receiver => exact ⟨s, serviceSlot_of_receiver hσ hrole⟩
    | sender =>
      rw [serviceSlot_of_sender hσ hrole]
      rcases sender_cases hinv hrole with ⟨hmode, hstate | hstate | hstate⟩ | ⟨hmode, hstate⟩
      · obtain ⟨d, hd⟩ := exists_frag_of_sending hinv hrole hstate
        exact ⟨_, (serviceSender_of_sending hmode hstate).trans (serviceSending_eq hd rfl)⟩
      · exact ⟨_, (serviceSender_of_awaitingEom hmode hstate).trans (serviceAwaitingEom_eq hrole rfl)⟩
      · exact ⟨s, serviceSender_of_rtsSent hmode hstate⟩
      · obtain ⟨d, hd⟩ := exists_frag_of_sending hinv hrole hstate
        obtain ⟨-, -, -, -, ⟨-, hnextTx, -⟩, -⟩ := hinv
        obtain ⟨due, hdue⟩ := Option.isSome_iff_exists.1 (hnextTx.trans (decide_eq_true ⟨hrole, hmode⟩))
        rw [serviceSender_of_broadcast hmode hstate hdue]
        split_ifs
        · exact ⟨s, rfl⟩
        · exact ⟨_, sendBamDt_eq hrole hd rfl⟩

end

/-! ### All visits of a POLL -/

/-- Between s and t slot i was served once, from s1 to s2; s1 agrees with s on the slot, the time and the configuration,
and what the visit left in the slot and in the trace is still there at t. -/
structure Served (i : Nat) (s t s1 s2 : State) : Prop where
  slot_before : slotAt s1 i = slotAt s i
  cfg : s1.cfg = s.cfg
  clock : s1.clock = s.clock
  served : serviceSlot i s1 = .next s2
  slot_after : slotAt t i = slotAt s2 i
  trace : s2.trace ⊆ t.trace

/-- The visits of distinct slots complete, serve each of them once and leave every other slot. -/
theorem pollSlots_serves {is : List Nat} {s : State} (hnodup : is.Nodup)
    (hinv : ∀ i ∈ is, ∀ σ, slotAt s i = some σ → SessionInv s.cfg s.clock σ) :
    ∃ t, pollSlots is s = .next t ∧ t.status = some .ok ∧ s.trace ⊆ t.trace ∧
      (∀ j, j ∉ is → slotAt t j = slotAt s j) ∧ ∀ i ∈ is, ∃ s1 s2, Served i s t s1 s2 := by
  induction is generalizing s with
  | nil => exact ⟨_, rfl, rfl, fun _ hx => hx, fun _ _ => rfl, nofun⟩
  | cons i is ih =>
    obtain ⟨hi, hnodup'⟩ := List.nodup_cons.1 hnodup
    obtain ⟨u, hu⟩ := serviceSlot_completes (hinv i List.mem_cons_self)
    have hvisit := serviceSlot_serviced hu
    have hsame : ∀ j ∈ is, slotAt u j = slotAt s j := fun j hj =>
      hvisit.slotAt_other fun heq => hi (heq ▸ hj)
    have hinv' : ∀ j ∈ is, ∀ σ, slotAt u j = some σ → SessionInv u.cfg u.clock σ := fun j hj σ hσ => by
      rw [hvisit.cfg_eq, hvisit.clock_eq]
      exact hinv j (List.mem_cons_of_mem i hj) σ (hsame j hj ▸ hσ)
    obtain ⟨t, ht, hstatus, htrace, hothers, hserved⟩ := ih hnodup' hinv'
    have hrun : pollSlots (i :: is) s = .next t := by rw [pollSlots, hu]; exact ht
    refine ⟨t, hrun, hstatus, List.Subset.trans hvisit.trace_subset htrace, fun j hj => ?_, ?_⟩
    · obtain ⟨hji, hjis⟩ := not_or.1 (mt List.mem_cons.2 hj)
      rw [hothers j hjis, hvisit.slotAt_other hji]
    · intro j hj
      rcases List.mem_cons.1 hj with rfl | hjis
      · exact ⟨s, u, rfl, rfl, rfl, hu, hothers j hi, htrace⟩
      · obtain ⟨s1, s2, hj⟩ := hserved j hjis
        exact ⟨s1, s2, hj.slot_before.trans (hsame j hjis), hj.cfg.trans hvisit.cfg_eq, hj.clock.trans hvisit.clock_eq,
          hj.served, hj.slot_after, hj.trace⟩

theorem mem_trace_of_sent {f : Frame} {s : State} (hok : (tx f s).1 = .ok) : .tx f .ok ∈ (tx f s).2.trace := by
  simp [hok]

section
variable {i : Nat} {s t s1 s2 u : State} {σ : Session} {f : Frame}

/-- A visit whose frame was answered OK: what it left is what the POLL leaves. -/
theorem Served.of_sent (h : Served i s t s1 s2)
    (hvisit : serviceSlot i s1 = .next (if (tx f s1).1 = .ok then u else abort i σ .ioError (tx f s1).2))
    (hok : (tx f s1).1 = .ok) : slotAt t i = slotAt u i ∧ u.trace ⊆ t.trace := by
  obtain rfl : s2 = u := Host.Outcome.next.inj (h.served.symm.trans (hvisit.trans (by rw [if_pos hok])))
  exact ⟨h.slot_after, h.trace⟩

/-- A visit whose frame failed ends the session with IO_ERROR. -/
theorem Served.of_failed (h : Served i s t s1 s2)
    (hvisit : serviceSlot i s1 = .next (if (tx f s1).1 = .ok then u else abort i σ .ioError (tx f s1).2))
    (hfailed : (tx f s1).1 ≠ .ok) : slotAt t i = none ∧ .tx f (tx f s1).1 ∈ t.trace ∧
      endReport i σ .aborted .ioError none .none none ∈ t.trace := by
  obtain rfl : s2 = abort i σ .ioError (tx f s1).2 :=
    Host.Outcome.next.inj (h.served.symm.trans (hvisit.trans (by rw [if_neg hfailed])))
  have htrace := trace_of_failed_tx i σ f s1
  refine ⟨h.slot_after.trans ((slotAt_abort ..).trans (if_pos rfl)), h.trace ?_, h.trace ?_⟩
  · simp [htrace]
  · simp [htrace]

end

theorem exec_poll (now : Millis) (s : State) :
    exec (.poll now) s = pollSlots (slotIndices (beginCommand now s)) (beginCommand now s) := rfl

/-- Under the invariant a POLL completes and serves every valid slot once. -/
theorem exec_poll_serves {s : State} (hinv : Inv s) (now : Millis) :
    ∃ t, exec (.poll now) s = .next t ∧ t.status = some .ok ∧
      ∀ i σ, slotAt (beginCommand now s) i = some σ → ∃ s1 s2, Served i (beginCommand now s) t s1 s2 := by
  obtain ⟨t, ht, hstatus, -, -, hserved⟩ :=
    pollSlots_serves (s := beginCommand now s) (is := slotIndices (beginCommand now s)) List.nodup_range
      fun i _ σ hσ => (hinv.beginCommand now).sessionInv hσ
  exact ⟨t, ht, hstatus, fun i σ hσ => hserved i (List.mem_range.2 (lt_of_slotAt hσ))⟩

/-! ### The senders of a POLL -/

/-- Settles O46: the one visit sends the segment; the answer to it selects the abort or what follows a sent DT. -/
theorem pollAdvancesAConnectionSender : Obligations.PollAdvancesAConnectionSender := by
  rintro now s s0 i σ d hinv rfl hσ hrole hmode hstate hd
  obtain ⟨t, ht, hstatus, hserved⟩ := exec_poll_serves hinv now
  obtain ⟨s1, s2, h⟩ := hserved i σ hσ
  have hσ1 := h.slot_before.trans hσ
  have hvisit := (serviceSlot_of_sender hσ1 hrole).trans ((serviceSender_of_sending hmode hstate).trans
    (serviceSending_eq hd (dtf_of_sender hrole ..)))
  rw [h.cfg, h.clock, afterDt_eq ((hinv.beginCommand now).sessionInv hσ) hstate] at hvisit
  by_cases hok : (tx ⟨true, mkId σ.prio (beginCommand now s).cfg.pgnTpdt σ.dst σ.src, d⟩ s1).1 = .ok
  · obtain ⟨hslot, htrace⟩ := h.of_sent hvisit hok
    refine ⟨t, .ok, ht, hstatus, htrace (mem_trace_of_sent hok), absurd rfl, fun _ => hslot.trans ?_⟩
    exact slotAt_setSlot_same (by simpa using lt_of_slotAt hσ1) _
  · obtain ⟨hslot, htx, hend⟩ := h.of_failed hvisit hok
    exact ⟨t, _, ht, hstatus, htx, fun _ => ⟨hslot, hend⟩, (absurd · hok)⟩

/-- Settles O47: the one visit sends the EOM_ACK, and either answer ends the session. -/
theorem pollEndsASenderWithItsEomAck : Obligations.PollEndsASenderWithItsEomAck := by
  rintro now s s0 i σ hinv rfl hσ hstate
  obtain ⟨hrole, hmode⟩ := sender_of_awaitingEom ((hinv.beginCommand now).sessionInv hσ) hstate
  obtain ⟨t, ht, hstatus, hserved⟩ := exec_poll_serves hinv now
  obtain ⟨s1, s2, h⟩ := hserved i σ hσ
  have hvisit := (serviceSlot_of_sender (h.slot_before.trans hσ) hrole).trans
    ((serviceSender_of_awaitingEom hmode hstate).trans (serviceAwaitingEom_eq hrole (cmf_of_sender hrole ..)))
  rw [h.cfg] at hvisit
  generalize (⟨true, mkId σ.prio _ σ.dst σ.src, _⟩ : Frame) = f at hvisit ⊢
  by_cases hok : (tx f s1).1 = .ok
  · obtain ⟨hslot, htrace⟩ := h.of_sent hvisit hok
    rw [trace_of_last_frame hok] at htrace
    exact ⟨t, .ok, ht, hstatus, hslot.trans (slotAt_free_same ..), htrace (by simp), htrace (by simp)⟩
  · obtain ⟨hslot, htx, hend⟩ := h.of_failed hvisit hok
    exact ⟨t, _, ht, hstatus, hslot, htx, by simpa [hok] using hend⟩

/-- Settles O48: before next_tx the visit is idle; after it, it sends the segment and the answer and its number select
the abort, the advance or the end. -/
theorem pollPacesABroadcastSender : Obligations.PollPacesABroadcastSender := by
  rintro now s s0 i σ due d hinv rfl hσ hrole hmode hdue hd
  have hσinv := (hinv.beginCommand now).sessionInv hσ
  have hstate := sendingData_of_broadcast hσinv hrole hmode
  obtain ⟨-, -, -, -, -, -, hdst⟩ := hσinv
  obtain ⟨t, ht, hstatus, hserved⟩ := exec_poll_serves hinv now
  obtain ⟨s1, s2, h⟩ := hserved i σ hσ
  have hσ1 := h.slot_before.trans hσ
  have hvisit := (serviceSlot_of_sender hσ1 hrole).trans (serviceSender_of_broadcast hmode hstate hdue)
  rw [sendBamDt_eq hrole hd (dtf_of_sender hrole ..), hdst.2 hmode, h.cfg, h.clock] at hvisit
  refine ⟨t, ht, hstatus, fun hbefore => ?_, fun hcome => ?_⟩
  · rw [if_pos hbefore] at hvisit
    obtain rfl := Host.Outcome.next.inj (h.served.symm.trans hvisit)
    exact h.slot_after.trans hσ1
  rw [if_neg hcome.not_gt] at hvisit
  generalize (⟨true, mkId σ.prio _ addrGlobal σ.src, d⟩ : Frame) = f at hvisit ⊢
  by_cases hok : (tx f s1).1 = .ok
  · obtain ⟨hslot, htrace⟩ := h.of_sent hvisit hok
    by_cases hlast : σ.nextSeq + 1 > σ.numPackets
    · rw [if_pos hlast] at hslot htrace
      rw [trace_of_last_frame hok] at htrace
      refine ⟨.ok, htrace (by simp), absurd rfl, fun _ hmore => absurd hlast (by omega), fun _ _ => ?_⟩
      exact ⟨hslot.trans (slotAt_free_same ..), htrace (by simp)⟩
    · rw [if_neg hlast] at hslot htrace
      refine ⟨.ok, htrace (mem_trace_of_sent hok), absurd rfl, fun _ _ => hslot.trans ?_,
        fun _ hend => absurd hend (by omega)⟩
      exact slotAt_setSlot_same (by simpa using lt_of_slotAt hσ1) _
  · obtain ⟨hslot, htx, hend⟩ := h.of_failed hvisit hok
    exact ⟨_, htx, fun _ => ⟨hslot, hend⟩, (absurd · hok), (absurd · hok)⟩

end Sys2Proof.Machine
end

section
/-! The session table's lookup and O14 (43_session_table.md R231), the refusals of an RTS and O30 (R240, R248), a
received EOM_ACK and O35 (R243; 42_session_fsm.md R185), and a malformed CM frame and O37 (43_session_table.md R245;
42_session_fsm.md R184). -/

namespace Sys2Proof.Machine

/-! ### Lookup (43_session_table.md R231) -/

theorem Inv.lookup_eq_some_iff {s : State} (h : Inv s) (src dst : Addr) (role : Role) (i : Nat) :
    lookup src dst role s = some i ↔ ∃ σ, slotAt s i = some σ ∧ σ.src = src ∧ σ.dst = dst ∧ σ.role = role := by
  constructor
  · exact lookup_spec
  · rintro ⟨σ, hσ, rfl, rfl, rfl⟩
    exact h.lookup_eq_some hσ

theorem lookup_eq_none_iff (src dst : Addr) (role : Role) (s : State) : lookup src dst role s = none ↔
    ∀ i σ, slotAt s i = some σ → ¬(σ.src = src ∧ σ.dst = dst ∧ σ.role = role) := by
  constructor
  · rintro hnone i σ hσ ⟨rfl, rfl, rfl⟩
    exact lookup_ne_none hσ hnone
  · intro hno
    by_contra hfound
    obtain ⟨i, hi⟩ := Option.ne_none_iff_exists'.1 hfound
    obtain ⟨σ, hσ, hkey⟩ := lookup_spec hi
    exact hno i σ hσ hkey

/-- Settles O14: a found slot has the key in every state; the invariant, which allows one slot per key, makes the slot
of a key the one found. -/
theorem lookupFindsTheOneSessionOfAKey : Obligations.LookupFindsTheOneSessionOfAKey :=
  fun s src dst role h => ⟨h.lookup_eq_some_iff src dst role, lookup_eq_none_iff src dst role s⟩

/-! ### The refusals of an RTS (43_session_table.md R240, R248) -/

theorem fromSource_global (rule : State → Host.Outcome State Fault Refusal) (s : State) :
    fromSource 0xFF rule s = ret .badFields s :=
  if_pos rfl

theorem rej_eq (sa da : Addr) (reason : Byte) (pgn : Pgn) (s : State) : rej sa da reason pgn s =
    (tx ⟨true, mkId s.cfg.replyPrio s.cfg.pgnTpcm sa da, encAbort reason pgn⟩ s).2 := rfl

/-- A rejection frame leaves its TX item and takes the adapter's answer, and does nothing else. -/
theorem ret_tx_eq (st : Status) (f : Frame) (s : State) : ∃ t, ret st (tx f s).2 = .next t ∧ t = { s with
    status := some st, trace := s.trace ++ [.tx f (tx f s).1], answers := t.answers, draws := t.draws } :=
  ⟨_, rfl, congrArg (fun t : State => { t with status := some st }) (tx_spec f s)⟩

section
variable {sa da : Addr} {len np : Nat} {pgn : Pgn} {s : State}

theorem validLength_eq_false (h : len < 9 ∨ 1785 < len ∨ np ≠ numPacketsOf len) : validLength len np = false := by
  refine decide_eq_false ?_
  simp only [lMin, lMax]
  omega

theorem rxRts_of_bad_fields (h : da = 0xFF ∨ validLength len np = false) :
    rxRts sa da len np pgn s = ret .badFields s :=
  if_pos h

theorem rxRts_of_existing (hda : da ≠ 0xFF) (hvalid : validLength len np = true)
    (hbusy : lookup sa da .receiver s ≠ none) :
    rxRts sa da len np pgn s = ret .busy (rej sa da s.cfg.rsnBusy pgn s) := by
  rw [rxRts, if_neg (by simpa [hvalid] using hda), if_pos (Option.isSome_iff_ne_none.2 hbusy)]

theorem rxRts_of_no_room (hda : da ≠ 0xFF) (hvalid : validLength len np = true)
    (hfree : lookup sa da .receiver s = none) (hroom : s.cfg.maxRxLen < len ∨ alloc s = none) :
    rxRts sa da len np pgn s = ret .resources (rej sa da s.cfg.rsnResources pgn s) := by
  rw [rxRts, if_neg (by simpa [hvalid] using hda), hfree, if_neg (by simp)]
  split_ifs with hlong
  · rfl
  · rw [hroom.resolve_left hlong]

end

/-- Settles O30: the checks of R240 in their order; each refusal with a frame is that frame's transmission. -/
theorem rtsRefusalsLeaveTheTable : Obligations.RtsRefusalsLeaveTheTable := by
  rintro now sa da len np pgn s s0 busy full rfl rfl rfl
  rw [exec_cmRts]
  refine ⟨fun hbad => ?_, fun hsa hda hmin hmax hnp hbusy => ?_, fun hsa hda hmin hmax hnp hfree hroom => ?_⟩
  · by_cases hsa : sa = 0xFF
    · rw [hsa, fromSource_global, ret_eq]
    · rw [fromSource_of_ne hsa, rxRts_of_bad_fields ((hbad.resolve_left hsa).imp_right validLength_eq_false), ret_eq]
  · rw [fromSource_of_ne hsa, rxRts_of_existing hda (validLength_eq_true hmin hmax hnp) hbusy, rej_eq]
    exact ret_tx_eq ..
  · rw [fromSource_of_ne hsa, rxRts_of_no_room hda (validLength_eq_true hmin hmax hnp) hfree hroom, rej_eq]
    exact ret_tx_eq ..

/-! ### A received EOM_ACK (43_session_table.md R243) -/

theorem exec_cmEomAck (now : Millis) (sa da : Addr) (len np : Nat) (pgn : Pgn) (s : State) :
    exec (.cmEomAck now sa da len np pgn) s = fromSource sa (rxEomAck sa da pgn) (beginCommand now s) := rfl

theorem foldl_eomAckAt (os : List Nat) (s : State) : os.foldl eomAckAt s = s := by
  induction os with
  | nil => rfl
  | cons o os ih => exact ih

theorem rxEomAck_eq (sa da : Addr) (pgn : Pgn) (s : State) :
    rxEomAck sa da pgn s = ret (if owners sa da pgn s = [] then .noSession else .ignored) s := by
  cases h : owners sa da pgn s with
  | nil => rw [rxEomAck, h, if_pos rfl]
  | cons o os =>
    rw [rxEomAck, h, if_neg (List.cons_ne_nil o os)]
    exact congrArg (ret .ignored) (foldl_eomAckAt (o :: os) s)

/-- Settles O35: SA is tested first, then whether there is an owner; no owner is touched. -/
theorem eomAckChangesNothing : Obligations.EomAckChangesNothing := by
  rintro now sa da len np pgn s s0 rfl
  rw [exec_cmEomAck]
  split_ifs with hsa hnone
  · rw [hsa, fromSource_global, ret_eq]
  · rw [fromSource_of_ne hsa, rxEomAck_eq, if_pos hnone, ret_eq]
  · rw [fromSource_of_ne hsa, rxEomAck_eq, if_neg hnone, ret_eq]

/-! ### A malformed CM frame over its owners (43_session_table.md R245) -/

theorem exec_rxFrame (now : Millis) (f : Frame) (s : State) :
    exec (.rxFrame now f) s = rxClassified f (beginCommand now s) := rfl

theorem rxClassified_of_cm {f : Frame} {s : State} (h : classify s.cfg f = .cm) (hsa : sourceAddr f.id ≠ 0xFF) :
    rxClassified f s = rxCm (sourceAddr f.id) (destAddr f.id) (decCm f.data) s := by
  rw [rxClassified, h]
  exact fromSource_of_ne hsa ..

/-- Visits that each free their own slot together free the slots they visit. -/
theorem slotAt_foldl_of_frees {visit : State → Nat → State}
    (hvisit : ∀ s i j, slotAt (visit s i) j = if j = i then none else slotAt s j) (os : List Nat) (s : State)
    (j : Nat) : slotAt (os.foldl visit s) j = if j ∈ os then none else slotAt s j := by
  induction os generalizing s with
  | nil => rw [List.foldl_nil, if_neg List.not_mem_nil]
  | cons o os ih =>
    rw [List.foldl_cons, ih, hvisit]
    by_cases hjos : j ∈ os <;> simp [hjos]

theorem slotAt_of_mem_owners {sa da : Addr} {pgn : Pgn} {s : State} {i : Nat} (h : i ∈ owners sa da pgn s) :
    ∃ σ, slotAt s i = some σ ∧ σ.pgn = pgn :=
  let ⟨σ, hσ, hpgn, _⟩ := (mem_owners_iff i).1 h
  ⟨σ, hσ, hpgn⟩

/-- The Abort frame that a malformed CM frame makes slot i send, if any (42_session_fsm.md R165, R184). -/
def malformedFrame (s : State) (i : Nat) : Option Frame :=
  match slotAt s i with
  | none => none
  | some σ =>
    if σ.mode = .connection then some (cmf s.cfg σ (encAbort s.cfg.rsnUnexpectedData σ.pgn)) else none

/-- The slot, outcome and cause that an END item reports (30_encoding.md R95). -/
def endCause (e : EndItem) : Nat × SessState × Cause := (e.slot, e.outcome, e.cause)

section
variable {s : State} {i j : Nat} {σ : Session}

theorem malformedFrame_of_slot (hσ : slotAt s i = some σ) : malformedFrame s i =
    if σ.mode = .connection then some (cmf s.cfg σ (encAbort s.cfg.rsnUnexpectedData σ.pgn)) else none := by
  rw [malformedFrame, hσ]

theorem malformedAt_of_slot (hσ : slotAt s i = some σ) : malformedAt s i = abort i σ .malformedCm s := by
  rw [malformedAt, hσ]

theorem malformedAt_of_free (hnone : slotAt s i = none) : malformedAt s i = s := by
  rw [malformedAt, hnone]

theorem malformedAt_cfg (s : State) (i : Nat) : (malformedAt s i).cfg = s.cfg := by
  cases h : slotAt s i with
  | none => rw [malformedAt_of_free h]
  | some σ => rw [malformedAt_of_slot h, abort_cfg]

theorem slotAt_malformedAt (s : State) (i j : Nat) :
    slotAt (malformedAt s i) j = if j = i then none else slotAt s j := by
  cases h : slotAt s i with
  | none =>
    rw [malformedAt_of_free h]
    split_ifs with hji
    · rw [hji, h]
    · rfl
  | some σ => rw [malformedAt_of_slot h, slotAt_abort]

/-- Ending one owner changes neither the session nor the frame of another. -/
theorem malformedFrame_malformedAt_other (h : j ≠ i) : malformedFrame (malformedAt s i) j = malformedFrame s j := by
  rw [malformedFrame, malformedFrame, slotAt_malformedAt, if_neg h, malformedAt_cfg]

/-- What ending the session of one slot appends: its Abort frame, if it sends one, and one END item. -/
theorem malformedAt_trace (hσ : slotAt s i = some σ) :
    ∃ items, (malformedAt s i).trace = s.trace ++ items ∧ framesOf items = (malformedFrame s i).toList ∧
      (endsOf items).map endCause = [(i, .aborted, .malformedCm)] := by
  refine ⟨_, (congrArg _ (malformedAt_of_slot hσ)).trans (abort_trace_of_reasonSent rfl i σ), ?_⟩
  rw [malformedFrame_of_slot hσ]
  split_ifs <;> exact ⟨rfl, rfl⟩

/-- What ending the sessions of distinct valid slots appends: the frames and END items of each, in order. -/
theorem foldl_malformedAt_trace {os : List Nat} (hnodup : os.Nodup) (hvalid : ∀ o ∈ os, ∃ σ, slotAt s o = some σ) :
    ∃ items, (os.foldl malformedAt s).trace = s.trace ++ items ∧ framesOf items = os.filterMap (malformedFrame s) ∧
      (endsOf items).map endCause = os.map fun o => (o, .aborted, .malformedCm) := by
  induction os generalizing s with
  | nil => exact ⟨[], by simp, rfl, rfl⟩
  | cons o os ih =>
    obtain ⟨ho, hnodup'⟩ := List.nodup_cons.1 hnodup
    have hne : ∀ o' ∈ os, o' ≠ o := fun o' ho' heq => ho (heq ▸ ho')
    obtain ⟨σ, hσ⟩ := hvalid o List.mem_cons_self
    have hvalid' : ∀ o' ∈ os, ∃ τ, slotAt (malformedAt s o) o' = some τ := fun o' ho' => by
      rw [slotAt_malformedAt, if_neg (hne o' ho')]
      exact hvalid o' (List.mem_cons_of_mem o ho')
    obtain ⟨first, hfirst, hfirstFrames, hfirstEnds⟩ := malformedAt_trace hσ
    obtain ⟨rest, hrest, hrestFrames, hrestEnds⟩ := ih hnodup' hvalid'
    refine ⟨first ++ rest, ?_, ?_, ?_⟩
    · rw [List.foldl_cons, hrest, hfirst, List.append_assoc]
    · rw [framesOf_append, hfirstFrames, hrestFrames,
        List.filterMap_congr fun o' ho' => malformedFrame_malformedAt_other (hne o' ho')]
      cases hframe : malformedFrame s o <;> simp [hframe]
    · rw [endsOf_append, List.map_append, hfirstEnds, hrestEnds]
      rfl

end

/-- Settles O37: the fold over the owners frees each of them and appends, per owner, its Abort frame if it is in
connection mode and its END item; an owner's PGN is the frame's. -/
theorem malformedFrameEndsItsOwners : Obligations.MalformedFrameEndsItsOwners := by
  rintro now fr ctl pgn s s0 rfl hcm hmalformed hsa
  have hexec := (exec_rxFrame now fr s).trans (rxClassified_of_cm hcm hsa)
  rw [hmalformed] at hexec
  obtain ⟨items, htrace, hframes, hends⟩ := foldl_malformedAt_trace nodup_owners fun o ho =>
    (slotAt_of_mem_owners ho).imp fun _ => And.left
  refine ⟨_, hexec, rfl, fun i hi => ?_, fun i hi => ?_, ?_, ?_⟩
  · exact (slotAt_foldl_of_frees slotAt_malformedAt ..).trans (if_pos hi)
  · exact (slotAt_foldl_of_frees slotAt_malformedAt ..).trans (if_neg hi)
  · dsimp only
    rw [htrace, endsOf_append, List.map_append]
    exact congrArg (_ ++ ·) hends
  · dsimp only
    rw [htrace, framesOf_append, hframes]
    refine congrArg (_ ++ ·) (List.filterMap_congr fun o ho => ?_)
    obtain ⟨σ, hσ, rfl⟩ := slotAt_of_mem_owners ho
    rw [malformedFrame_of_slot hσ, hσ]

end Sys2Proof.Machine
end

section
/-! What an abort records, transmits and frees, O18 (42_session_fsm.md R165; 60_exceptions.md R272). -/

namespace Sys2Proof.Machine

/-- The five causes that send an Abort frame, each with its reason. -/
theorem reasonSent_of_cause {cfg : Config} {ev : AbortEvent} {r : Byte}
    (h : (ev = .timeout ∧ r = cfg.rsnTimeout) ∨ (ev = .overallTimeout ∧ r = cfg.rsnTimeout) ∨
      (ev = .sequence ∧ r = cfg.rsnSequenceError) ∨ (ev = .malformedCm ∧ r = cfg.rsnUnexpectedData) ∨
      (ev = .cancelled ∧ r = cfg.rsnCancel)) : reasonSent cfg ev = some r := by
  rcases h with ⟨rfl, rfl⟩ | ⟨rfl, rfl⟩ | ⟨rfl, rfl⟩ | ⟨rfl, rfl⟩ | ⟨rfl, rfl⟩ <;> rfl

/-- Where the mode or the cause sends nothing, no Abort frame is sent: an I/O error and a peer's Abort have no reason to
send even in connection mode. -/
theorem abortFrameReason_eq_none {σ : Session} {ev : AbortEvent}
    (h : σ.mode = .broadcast ∨ ev = .ioError ∨ ∃ r, ev = .peerAbort r) (cfg : Config) :
    abortFrameReason cfg σ ev = none := by
  by_cases hmode : σ.mode = .connection
  · rw [abortFrameReason_of_connection hmode]
    rcases h with hbroadcast | rfl | ⟨r, rfl⟩
    · cases hmode.symm.trans hbroadcast
    · rfl
    · rfl
  · exact abortFrameReason_of_not_connection hmode cfg ev

/-- Settles O18: the slots and the kept fields are the laws of abort; a cause with a reason of its own gives the trace
with the Abort frame, and any other abort is its END item alone. -/
theorem abortReportsAndFrees : Obligations.AbortReportsAndFrees := by
  intro i σ ev s _
  refine ⟨(slotAt_abort ..).trans (if_pos rfl), fun j hj => (slotAt_abort ..).trans (if_neg hj),
    abort_clock .., abort_cfg .., abort_inputs .., ?_, fun hsilent => ?_⟩
  · rintro r f hmode hcause rfl
    rw [abort_trace_of_reasonSent (reasonSent_of_cause hcause), if_pos hmode, endReport, hmode]
  · rw [abort_of_silent (abortFrameReason_eq_none hsilent s.cfg)]
    exact ⟨rfl, rfl, rfl⟩

end Sys2Proof.Machine
end

section
/-! What a command does after its envelope, said once for all instructions: the moves its rule makes in the session
table, and how it ends (43_session_table.md R235). -/

namespace Sys2Proof.Machine

/-! ### One move of a rule -/

/-- What a rule may make of a session that stays valid: the fields of its transfer stay, a sender's buffer stays, a
buffer stays canonical, and where W holds (the operands fit their fields) so does the invariant of the session. -/
structure Advance (W : Prop) (cfg : Config) (clock : Millis) (σ τ : Session) : Prop where
  same : sameTransfer σ τ
  buf : σ.role = .sender → τ.buf = σ.buf
  wf : Memory.wf σ.buf → Memory.wf τ.buf
  inv : W → SessionInv cfg clock σ → SessionInv cfg clock τ

/-- One move of a rule in the session table: a frame, the abort or the end of a valid session, which the rule may have
changed before it within its transfer, or the advance of one. -/
inductive Move (W : Prop) (s : State) : State → Prop where
  | sent (f : Frame) : Move W s (tx f s).2
  | aborted {i : Nat} {σ τ : Session} (hσ : slotAt s i = some σ) (hsame : sameTransfer σ τ) (ev : AbortEvent) :
    Move W s (abort i τ ev s)
  | finished {i : Nat} {σ τ : Session} (hσ : slotAt s i = some σ) (hsame : sameTransfer σ τ)
    (data : Option (List Byte)) : Move W s (free i (emit (endReport i τ .done .none none .none data) s))
  | advanced {i : Nat} {σ τ : Session} (hσ : slotAt s i = some σ) (hadv : Advance W s.cfg s.clock σ τ) :
    Move W s (setSlot i (some τ) s)

/-- The moves of a rule, in order. -/
abbrev Moves (W : Prop) : State → State → Prop := Relation.ReflTransGen (Move W)

section
variable {W : Prop} {s t : State}

theorem Moves.of_move (h : Move W s t) : Moves W s t := .single h

/-- A fact that every move keeps is kept by all of them. -/
theorem Moves.keeps {P : State → Prop} (hP : ∀ u v, P u → Move W u v → P v) (h : Moves W s t) (hs : P s) : P t := by
  induction h with
  | refl => exact hs
  | tail _ hmove ih => exact hP _ _ ih hmove

/-! ### What no move changes -/

theorem Move.frame (h : Move W s t) :
    t.cfg = s.cfg ∧ t.clock = s.clock ∧ t.inputs = s.inputs ∧ t.slots.length = s.slots.length := by
  cases h <;> simp

theorem Moves.frame (h : Moves W s t) :
    t.cfg = s.cfg ∧ t.clock = s.clock ∧ t.inputs = s.inputs ∧ t.slots.length = s.slots.length := by
  refine h.keeps (P := fun u => u.cfg = s.cfg ∧ u.clock = s.clock ∧ u.inputs = s.inputs ∧
    u.slots.length = s.slots.length) (fun u v hu hmove => ?_) ⟨rfl, rfl, rfl, rfl⟩
  obtain ⟨hcfg, hclock, hinputs, hlength⟩ := hmove.frame
  obtain ⟨hcfg', hclock', hinputs', hlength'⟩ := hu
  exact ⟨hcfg.trans hcfg', hclock.trans hclock', hinputs.trans hinputs', hlength.trans hlength'⟩

theorem Moves.cfg_eq (h : Moves W s t) : t.cfg = s.cfg := h.frame.1

theorem Moves.clock_eq (h : Moves W s t) : t.clock = s.clock := by
  obtain ⟨-, hclock, -⟩ := h.frame
  exact hclock

/-! ### Where the session in a slot comes from -/

theorem sameTransfer.trans {σ τ ρ : Session} (h1 : sameTransfer σ τ) (h2 : sameTransfer τ ρ) : sameTransfer σ ρ := by
  simp only [sameTransfer] at *
  simp_all only [and_self]

/-- σ, or what advances of its slot made of it. -/
def Continues (σ τ : Session) : Prop := sameTransfer σ τ ∧ (σ.role = .sender → τ.buf = σ.buf)

theorem Continues.refl (σ : Session) : Continues σ σ := ⟨sameTransfer_refl σ, fun _ => rfl⟩

theorem Continues.trans {σ τ ρ : Session} (h1 : Continues σ τ) (h2 : Continues τ ρ) : Continues σ ρ := by
  obtain ⟨hsame1, hbuf1⟩ := h1
  obtain ⟨hsame2, hbuf2⟩ := h2
  obtain ⟨hrole, -⟩ := id hsame1
  exact ⟨hsame1.trans hsame2, fun hsender => (hbuf2 (hrole.trans hsender)).trans (hbuf1 hsender)⟩

/-- No move puts a session into a free slot. -/
theorem Move.continues (h : Move W s t) {j : Nat} {τ : Session} (hτ : slotAt t j = some τ) :
    ∃ σ, slotAt s j = some σ ∧ Continues σ τ := by
  cases h with
  | sent f => exact ⟨τ, (slotAt_tx ..).symm.trans hτ, .refl τ⟩
  | @aborted i _ _ _ _ ev =>
    rw [slotAt_abort] at hτ
    split at hτ
    · cases hτ
    · exact ⟨τ, hτ, .refl τ⟩
  | @finished i _ _ _ _ data =>
    by_cases hji : j = i
    · rw [hji, slotAt_free_same] at hτ
      cases hτ
    · rw [slotAt_free_other hji, slotAt_emit] at hτ
      exact ⟨τ, hτ, .refl τ⟩
  | @advanced i σ _ hσ hadv =>
    by_cases hji : j = i
    · subst hji
      rw [slotAt_setSlot_same (lt_of_slotAt hσ)] at hτ
      obtain rfl := Option.some.inj hτ
      exact ⟨σ, hσ, hadv.same, hadv.buf⟩
    · rw [slotAt_setSlot_other hji] at hτ
      exact ⟨τ, hτ, .refl τ⟩

theorem Moves.continues (h : Moves W s t) {j : Nat} {τ : Session} (hτ : slotAt t j = some τ) :
    ∃ σ, slotAt s j = some σ ∧ Continues σ τ := by
  induction h generalizing τ with
  | refl => exact ⟨τ, hτ, .refl τ⟩
  | tail _ hmove ih =>
    obtain ⟨ρ, hρ, hlast⟩ := hmove.continues hτ
    obtain ⟨σ, hσ, hbefore⟩ := ih hρ
    exact ⟨σ, hσ, hbefore.trans hlast⟩

/-! ### The ledger of sessions and END items -/

theorem Ledger.of_move (h : Move W s t) : ∃ new, Ledger s t new := by
  cases h with
  | sent f => exact ⟨_, .of_tx f s⟩
  | aborted hσ hsame ev => exact Ledger.of_abort hσ hsame ev
  | finished hσ hsame data => exact ⟨_, .of_ended hσ hsame ..⟩
  | advanced hσ hadv => exact ⟨_, .of_setSlot hσ hadv.same⟩

theorem Ledger.of_moves (h : Moves W s t) : ∃ new, Ledger s t new := by
  induction h with
  | refl => exact ⟨_, .refl s⟩
  | tail _ hmove ih =>
    obtain ⟨_, hbefore⟩ := ih
    obtain ⟨_, hlast⟩ := Ledger.of_move hmove
    exact ⟨_, hbefore.trans hlast⟩

/-! ### The canonical form of the buffers -/

theorem buffersCanonical_setSlot (hs : buffersCanonical s) {i : Nat} {τ : Session} (hτ : Memory.wf τ.buf) :
    buffersCanonical (setSlot i (some τ) s) := by
  intro ρ hρ
  rcases mem_validSessions_setSlot hρ with heq | hρ
  · exact Option.some.inj heq ▸ hτ
  · exact hs ρ hρ

theorem buffersCanonical_free (hs : buffersCanonical s) (ht : t.slots = s.slots.set i none) : buffersCanonical t := by
  intro ρ hρ
  rw [validSessions_congr (s := setSlot i none s) ht] at hρ
  exact hs ρ ((mem_validSessions_setSlot hρ).resolve_left nofun)

theorem Move.buffersCanonical (h : Move W s t) (hs : buffersCanonical s) : buffersCanonical t := by
  cases h with
  | sent f => exact fun ρ hρ => hs ρ (validSessions_congr (tx_slots f s) ▸ hρ)
  | aborted _ _ ev => exact buffersCanonical_free hs (abort_slots ..)
  | finished _ _ data => exact buffersCanonical_free hs (free_slots ..)
  | advanced hσ hadv => exact buffersCanonical_setSlot hs (hadv.wf (hs _ ((mem_validSessions_iff ..).2 ⟨_, hσ⟩)))

/-! ### The invariant -/

/-- The invariant speaks of the table, the time and the configuration only. -/
theorem Inv.congr (h : Inv s) (hslots : t.slots = s.slots) (hcfg : t.cfg = s.cfg) (hclock : t.clock = s.clock) :
    Inv t where
  legal := by rw [hcfg, h.legal]
  size := by rw [hslots, hcfg, h.size]
  sessions σ hσ := by
    rw [validSessions_congr hslots] at hσ
    rw [hcfg, hclock]
    exact h.sessions σ hσ
  keys := by rw [validSessions_congr hslots]; exact h.keys

/-- R37 (b), from the slots: where no two valid slots have the same key, the keys are distinct. -/
theorem nodup_keys_of_slots (h : ∀ i j σ τ, i < j → slotAt s i = some σ → slotAt s j = some τ →
    sessionKey σ ≠ sessionKey τ) : ((validSessions s).map sessionKey).Nodup := by
  rw [List.Nodup, List.pairwise_map, validSessions, List.pairwise_filterMap, List.pairwise_iff_getElem]
  intro i j hi hj hij σ hσ τ hτ
  refine h i j σ τ hij ((slotAt_eq_some_iff ..).2 ?_) ((slotAt_eq_some_iff ..).2 ?_)
  · rw [List.getElem?_eq_getElem hi]
    exact congrArg some hσ
  · rw [List.getElem?_eq_getElem hj]
    exact congrArg some hτ

/-- A slot may be given a session that meets its part of the invariant and whose key no other slot has. -/
theorem Inv.setSlot (h : Inv s) {i : Nat} {τ : Session} (hτ : SessionInv s.cfg s.clock τ)
    (hkey : ∀ j ρ, j ≠ i → slotAt s j = some ρ → sessionKey ρ ≠ sessionKey τ) : Inv (setSlot i (some τ) s) where
  legal := h.legal
  size := by rw [setSlot_slots, List.length_set, h.size, setSlot_cfg]
  sessions ρ hρ := by
    rcases mem_validSessions_setSlot hρ with heq | hρ
    · exact Option.some.inj heq ▸ hτ
    · exact h.sessions ρ hρ
  keys := by
    refine nodup_keys_of_slots fun a b ρ ρ' hab hρ hρ' => ?_
    rw [slotAt_setSlot] at hρ hρ'
    split at hρ
    · next ha =>
      obtain rfl := Option.some.inj hρ
      rw [if_neg (by omega)] at hρ'
      exact (hkey b ρ' (by omega) hρ').symm
    · next ha =>
      split at hρ'
      · next hb =>
        obtain rfl := Option.some.inj hρ'
        exact hkey a ρ (by omega) hρ
      · exact h.key_ne_of_lt hρ hρ' hab

theorem Move.inv (h : Move W s t) (hW : W) (hs : Inv s) : Inv t := by
  cases h with
  | sent f => exact hs.congr (tx_slots f s) (tx_cfg f s) (tx_clock f s)
  | aborted _ _ ev => exact hs.abort ..
  | @finished i _ τ _ _ data => exact (hs.abort i τ .ioError).congr (by simp) (by simp) (by simp)
  | @advanced i σ τ hσ hadv =>
    refine hs.setSlot (hadv.inv hW (hs.sessionInv hσ)) fun j ρ hji hρ hkey => hji (hs.slot_unique hρ hσ ?_)
    obtain ⟨hrole, -, hsrc, hdst, -⟩ := hadv.same
    rw [hkey, sessionKey, hsrc, hdst, hrole]

theorem Moves.inv (h : Moves W s t) (hW : W) (hs : Inv s) : Inv t :=
  h.keeps (fun _ _ hu hmove => hmove.inv hW hu) hs

end

/-! ### How a command ends -/

/-- A session that a command may create: it has the key asked for, and meets the invariant from the start. -/
structure Fresh (key : Addr × Addr × Role) (cfg : Config) (clock : Millis) (τ : Session) : Prop where
  key : sessionKey τ = key
  created : τ.created = clock
  inv : SessionInv cfg clock τ

/-- The first frame of a new session, if it has one, was sent. -/
inductive Opened (s : State) : State → Prop where
  | silent : Opened s s
  | sent (f : Frame) : Opened s (tx f s).2

/-- How a command that may create a session with this key ends, from the state s after its envelope. -/
inductive Commanded (W : Prop) (key : Option (Addr × Addr × Role)) (s : State) : State → Prop where
  /-- Moves only, and the status does not tell of a new session. -/
  | settled {u : State} (hmoves : Moves W s u) (st : Status) (hst : key = none ∨ (st ≠ .ok ∧ st ≠ .ioError)) :
    Commanded W key s { u with status := some st }
  /-- A new session in the lowest free slot. -/
  | started {i : Nat} {src dst : Addr} {role : Role} {u : State} {τ : Session} (hkey : key = some (src, dst, role))
    (hi : alloc s = some i) (hfree : lookup src dst role s = none) (hopened : Opened s u)
    (hfresh : Fresh (src, dst, role) s.cfg s.clock τ) (slotOut : Option Nat) :
    Commanded W key s { setSlot i (some τ) u with status := some .ok, slotOut := slotOut }
  /-- A new session in the lowest free slot, whose first frame failed. -/
  | failed {i : Nat} {σ : Session} (hkey : key = some (sessionKey σ)) (hi : alloc s = some i) (f : Frame) :
    Commanded W key s { abort i σ .ioError (tx f (setSlot i (some σ) s)).2 with status := some .ioError }

section
variable {W : Prop} {key : Option (Addr × Addr × Role)} {s t u : State}

theorem Opened.moves (h : Opened s u) : Moves W s u := by
  cases h with
  | silent => exact .refl
  | sent f => exact .of_move (.sent f)

theorem Opened.slots_eq (h : Opened s u) : u.slots = s.slots := by
  cases h with
  | silent => rfl
  | sent f => exact tx_slots f s

/-- The first frame of a session is no END item. -/
theorem Opened.trace_eq (h : Opened s u) : ∃ new, u.trace = s.trace ++ new ∧ endsOf new = [] := by
  cases h with
  | silent => exact ⟨[], (List.append_nil _).symm, rfl⟩
  | sent f => exact ⟨_, tx_trace f s, rfl⟩

/-- Every command keeps the time, the configuration, the further events and the size of the table, and has a status. -/
theorem Commanded.frame (h : Commanded W key s t) : t.clock = s.clock ∧ t.status.isSome = true ∧ t.cfg = s.cfg ∧
    t.slots.length = s.slots.length ∧ t.inputs = s.inputs := by
  cases h with
  | settled hmoves st hst =>
    obtain ⟨hcfg, hclock, hinputs, hlength⟩ := hmoves.frame
    exact ⟨hclock, rfl, hcfg, hlength, hinputs⟩
  | started _ _ _ hopened _ _ =>
    obtain ⟨hcfg, hclock, hinputs, hlength⟩ := (hopened.moves (W := W)).frame
    exact ⟨hclock, rfl, hcfg, List.length_set.trans hlength, hinputs⟩
  | failed _ _ f => simp

/-- A command appends to the trace of its envelope. -/
theorem Commanded.trace_eq (h : Commanded W key s t) : ∃ new, t.trace = s.trace ++ new := by
  cases h with
  | settled hmoves st hst =>
    obtain ⟨new, hledger⟩ := Ledger.of_moves hmoves
    exact ⟨new, hledger.trace⟩
  | started _ _ _ hopened _ _ =>
    obtain ⟨new, htrace, -⟩ := hopened.trace_eq
    exact ⟨new, htrace⟩
  | failed _ _ f => exact ⟨_, trace_of_failed_start ..⟩

theorem Commanded.buffersCanonical (h : Commanded W key s t) (hs : buffersCanonical s) : buffersCanonical t := by
  cases h with
  | @settled u hmoves st hst =>
    have hu : Machine.buffersCanonical u := hmoves.keeps (fun _ _ hu hmove => hmove.buffersCanonical hu) hs
    exact hu
  | @started i src dst role u τ _ _ _ hopened hfresh _ =>
    obtain ⟨-, -, -, hbuf, -⟩ := hfresh.inv
    have hu : Machine.buffersCanonical u := fun ρ hρ => hs ρ (validSessions_congr hopened.slots_eq ▸ hρ)
    exact buffersCanonical_setSlot hu (wf_of_bufferOk hbuf)
  | failed _ hi f => exact fun ρ hρ => hs ρ (validSessions_congr (slots_of_failed_start hi ..) ▸ hρ)

theorem Commanded.inv (h : Commanded W key s t) (hW : W) (hs : Inv s) : Inv t := by
  cases h with
  | settled hmoves st hst => exact (hmoves.inv hW hs).congr rfl rfl rfl
  | @started i src dst role u τ _ hi hfree hopened hfresh _ =>
    have hu : Inv u := hopened.moves.inv hW hs
    have hcfg : u.cfg = s.cfg := (hopened.moves (W := W)).cfg_eq
    have hclock : u.clock = s.clock := (hopened.moves (W := W)).clock_eq
    have hτ : SessionInv u.cfg u.clock τ := by rw [hcfg, hclock]; exact hfresh.inv
    refine (hu.setSlot (i := i) hτ fun j ρ _ hρ hkey => ?_).congr rfl rfl rfl
    rw [slotAt_congr hopened.slots_eq] at hρ
    obtain ⟨hsrc, hdst, hrole⟩ : ρ.src = src ∧ ρ.dst = dst ∧ ρ.role = role := by
      simpa [sessionKey] using hkey.trans hfresh.key
    exact (lookup_eq_none_iff ..).1 hfree j ρ hρ ⟨hsrc, hdst, hrole⟩
  | failed _ hi f => exact hs.congr (slots_of_failed_start hi ..) (by simp) (by simp)

/-- A slot that is valid before and after a command continues its session: a new session takes a free slot. -/
theorem Commanded.continues (h : Commanded W key s t) {j : Nat} {σ τ : Session} (hσ : slotAt s j = some σ)
    (hτ : slotAt t j = some τ) : Continues σ τ := by
  cases h with
  | settled hmoves st hst =>
    obtain ⟨ρ, hρ, hcontinues⟩ := hmoves.continues hτ
    exact Option.some.inj (hσ.symm.trans hρ) ▸ hcontinues
  | @started i src dst role u τ' _ hi _ hopened _ _ =>
    have hji : j ≠ i := by
      rintro rfl
      exact nomatch hσ.symm.trans (alloc_spec hi).2
    have hτ' : slotAt u j = some τ := (slotAt_setSlot_other hji _).symm.trans hτ
    rw [slotAt_congr hopened.slots_eq, hσ] at hτ'
    exact Option.some.inj hτ' ▸ .refl σ
  | failed _ hi f =>
    have hsame := (slotAt_congr (slots_of_failed_start hi _ _ f) j).symm.trans hτ
    exact Option.some.inj (hσ.symm.trans hsame) ▸ .refl σ

end

/-- What a rule answers, from the state s after the envelope: a next state as `Commanded` says; or it stops, which no
state that meets the invariant makes it do where W holds. -/
inductive Performs (W : Prop) (key : Option (Addr × Addr × Role)) (s : State) :
    Host.Outcome State Fault Refusal → Prop where
  | next {t : State} (h : Commanded W key s t) : Performs W key s (.next t)
  | fault (r : Fault) (h : W → ¬Inv s) : Performs W key s (.fault r)
  | refused (r : Refusal) (h : W → ¬Inv s) : Performs W key s (.refused r)

section
variable {W : Prop} {key : Option (Addr × Addr × Role)} {s t : State} {o : Host.Outcome State Fault Refusal}

theorem Performs.commanded (h : Performs W key s (.next t)) : Commanded W key s t := by
  cases h with
  | next h => exact h

theorem Performs.completes (h : Performs W key s o) (hW : W) (hs : Inv s) : ∃ t, o = .next t ∧ Commanded W key s t := by
  cases h with
  | next h => exact ⟨_, rfl, h⟩
  | fault r h => exact absurd hs (h hW)
  | refused r h => exact absurd hs (h hW)

/-- The return of a status that tells of no new session. -/
theorem Performs.of_refusal {u : State} (hmoves : Moves W s u) {st : Status} (hok : st ≠ .ok)
    (hio : st ≠ .ioError) : Performs W key s (ret st u) :=
  .next (.settled hmoves st (.inr ⟨hok, hio⟩))

/-- The return of a command that never creates a session. -/
theorem Performs.of_ret {u : State} (hmoves : Moves W s u) (st : Status) : Performs W none s (ret st u) :=
  .next (.settled hmoves st (.inl rfl))

end

end Sys2Proof.Machine
end

section
/-! The written offsets of a buffer (10_state.md R37 (e)), the advances of a session by a CTS and by a DT
(42_session_fsm.md R169, R170, R179), and what the rule of a DT makes of the table, as `Performs` says
(43_session_table.md R246). -/

namespace Sys2Proof.Machine

/-! ### The written offsets of a buffer (10_state.md R37 (e)) -/

theorem Memory.mem_of_read {m : Memory} {a : Nat} {v : Byte} (h : Memory.read m a = some v) : a ∈ m.map Prod.fst := by
  by_contra hno
  induction m with
  | nil => cases h
  | cons x rest ih =>
    obtain ⟨k, w⟩ := x
    rw [List.map_cons, List.mem_cons, not_or] at hno
    rw [Memory.read, if_neg (Ne.symm hno.1)] at h
    exact ih h hno.2

/-- A canonical buffer lists the offsets below n exactly when those are the ones that can be read. -/
theorem Memory.map_fst_eq_range_iff {m : Memory} (hwf : Memory.wf m) (n : Nat) :
    m.map Prod.fst = List.range n ↔ ∀ a, (∃ v, Memory.read m a = some v) ↔ a < n := by
  have hread : ∀ a, (∃ v, Memory.read m a = some v) ↔ a ∈ m.map Prod.fst := fun a =>
    ⟨fun ⟨_, hv⟩ => Memory.mem_of_read hv, Memory.exists_read_of_mem⟩
  simp only [hread, ← List.mem_range]
  constructor
  · intro heq a
    rw [heq]
  · exact (List.pairwise_map.2 hwf).eq_of_mem_iff List.pairwise_lt_range

theorem Memory.Holds.map_fst {m : Memory} {bytes : List Byte} (h : Memory.Holds m bytes) :
    m.map Prod.fst = List.range bytes.length := by
  refine (Memory.map_fst_eq_range_iff h.1 _).2 fun a => ?_
  rw [h.2, ← Option.isSome_iff_exists, isSome_getElem?]

/-- A buffer whose written offsets are those below n holds some n bytes. -/
theorem Memory.exists_holds {m : Memory} {n : Nat} (h : m.map Prod.fst = List.range n) :
    ∃ bytes, bytes.length = n ∧ Memory.Holds m bytes := by
  have hwf : Memory.wf m := List.pairwise_map.1 (h ▸ List.pairwise_lt_range)
  obtain ⟨bytes, hbytes⟩ := Memory.exists_readBytes (m := m) (off := 0) (n := n) fun a _ ha => by
    rw [h, List.mem_range]
    omega
  obtain ⟨hlen, hread⟩ := (Memory.readBytes_eq_some_iff ..).1 hbytes
  refine ⟨bytes, hlen, hwf, fun a => ?_⟩
  rcases Nat.lt_or_ge a n with hlt | hge
  · rw [← hread a hlt, Nat.zero_add]
  · rw [List.getElem?_eq_none (hlen ▸ hge)]
    by_contra hsome
    have hmem := (Memory.map_fst_eq_range_iff hwf n).1 h a
    exact absurd (hmem.1 (Option.ne_none_iff_exists'.1 hsome)) (by omega)

/-! ### Advances (42_session_fsm.md R169, R170, R179) -/

section
variable {W : Prop} {cfg : Config} {clock : Millis} {σ : Session}

/-- A session in RTS_SENT that waits for a CTS holds on for another T3. -/
theorem Advance.of_hold (hstate : σ.state = .rtsSent) (t : Millis) : Advance W cfg clock σ (arm clock t σ) where
  same := sameTransfer_refl σ
  buf _ := rfl
  wf h := h
  inv _ h := by
    obtain ⟨hallowed, hlen, hprog, hbuf, ⟨-, hnextTx, hcreated⟩, haddr⟩ := h
    exact ⟨hallowed, hlen, hprog, hbuf, ⟨by rw [arm_deadline, arm_state, hstate]; rfl, hnextTx, hcreated⟩, haddr⟩

/-- The granted window begins at the next segment and ends within the message. -/
theorem Advance.of_grant {n : Nat} (hn : n ≠ 0) (hawaits : awaitsCts cfg σ = true) : Advance W cfg clock σ
    { disarm { σ with windowEnd := min (σ.nextSeq + n - 1) σ.numPackets } with state := .sendingData } where
  same := sameTransfer_refl σ
  buf _ := rfl
  wf h := h
  inv _ h := by
    obtain ⟨⟨hrole, hmode, hstate⟩, hwait⟩ := (awaitsCts_eq_true_iff cfg σ).1 hawaits
    obtain ⟨-, hlen, ⟨hfirst, hwindow, hwindowEnd, -, -, hnext, -⟩, hbuf, ⟨-, hnextTx, hcreated⟩, haddr⟩ := h
    have hle : σ.nextSeq ≤ σ.numPackets := hnext (by rw [hstate]; nofun)
    refine ⟨by rw [disarm_role, disarm_mode, hrole, hmode]; rfl, hlen, ⟨hfirst, ?_, ?_, ?_, nofun, ?_, nofun, ?_⟩, hbuf,
      ⟨rfl, hnextTx, hcreated⟩, haddr⟩
    · simp only [disarm_windowEnd]
      omega
    · exact min_le_right ..
    · intro _
      simp only [disarm_nextSeq, disarm_windowEnd]
      omega
    · exact fun _ => hle
    · rintro (hbroadcast | hnowait)
      · exact nomatch hmode.symm.trans hbroadcast
      · exact nomatch hwait.symm.trans hnowait

/-- A segment that is not the last is 7 bytes, so a receiver that stores it holds the segments before the next one. -/
theorem bufferOk_storeSegment {p : List Byte} (hp : p.length = 7) (hrole : σ.role = .receiver) (hbuf : bufferOk σ)
    (hlen : lengthOk cfg σ) (hfirst : 1 ≤ σ.nextSeq) (hlt : σ.nextSeq < σ.numPackets) :
    bufferOk (storeSegment σ p) := by
  obtain ⟨-, -, hnp, -⟩ := hlen
  have hwritten : writtenBytes σ = segOff σ.nextSeq := by rw [writtenBytes, hrole]
  have hwritten' : writtenBytes (storeSegment σ p) = segOff σ.nextSeq + 7 := by
    rw [← segOff_succ hfirst, writtenBytes, storeSegment, hrole]
  have hfull : p.take (segLen σ.totalLen σ.nextSeq) = p := by
    have := numPacketsOf_bounds σ.totalLen
    refine List.take_of_length_le ?_
    rw [segLen_eq, segOff_eq]
    omega
  obtain ⟨bytes, hbytes, hholds⟩ := Memory.exists_holds hbuf
  have hstored := (hholds.append p).map_fst
  rw [List.length_append, hbytes, hwritten, hp] at hstored
  rw [bufferOk, hwritten', storeSegment, hfull]
  exact hstored

/-- A receiver that stores a segment that is not the last waits for the next one. -/
theorem Advance.of_stored {p : List Byte} (hp : W → p.length = 7) (hrole : σ.role = .receiver)
    (hlt : σ.nextSeq < σ.numPackets) (t : Millis) :
    Advance W cfg clock σ (arm clock t { storeSegment σ p with state := .receivingData }) where
  same := sameTransfer_refl σ
  buf hsender := nomatch hrole.symm.trans hsender
  wf h := Memory.wf_writeBytes h ..
  inv hW h := by
    obtain ⟨-, hlen, ⟨hfirst, hwindow, hwindowEnd, -, -, -, -, hall⟩, hbuf, ⟨-, hnextTx, hcreated⟩, haddr⟩ := h
    have hallowed : allowedState σ.role σ.mode .receivingData = true := by
      rw [hrole]
      cases σ.mode <;> rfl
    exact ⟨hallowed, hlen, ⟨Nat.le_add_left .., hwindow, hwindowEnd, nofun, nofun, fun _ => hlt, nofun, hall⟩,
      bufferOk_storeSegment (hp hW) hrole hbuf hlen hfirst hlt, ⟨rfl, hnextTx, hcreated⟩, haddr⟩

end

/-! ### The rule of a DT (43_session_table.md R246) -/

/-- What REASM makes of the next segment, in every state. -/
theorem reasm_next_cases (σ : Session) (p : List Byte) : reasm σ σ.nextSeq p = none ∨
    (reasm σ σ.nextSeq p = some (.accept, storeSegment σ p) ∧ σ.nextSeq < σ.numPackets) ∨
      (reasm σ σ.nextSeq p = some (.complete, storeSegment σ p) ∧ σ.numPackets ≤ σ.nextSeq) := by
  rw [reasm, if_pos rfl, memWrite]
  split_ifs with hfit
  · by_cases hlast : σ.numPackets ≤ σ.nextSeq
    · exact .inr (.inr ⟨by simp [storeSegment, Nat.lt_succ_of_le hlast], hlast⟩)
    · exact .inr (.inl ⟨by simp [storeSegment, Nat.lt_of_not_le hlast], by omega⟩)
  · exact .inl rfl

section
variable {W : Prop} {i : Nat} {σ τ : Session} {s u : State} {p : List Byte}

section
variable {cfg : Config} {clock : Millis}

/-- Under the invariant the next segment of a receiver begins inside the message. -/
theorem segOff_lt_of_receiver (h : SessionInv cfg clock σ) (hrole : σ.role = .receiver) :
    segOff σ.nextSeq < σ.totalLen := by
  have hnext := nextSeq_le_numPackets_of_receiver h hrole
  obtain ⟨-, ⟨hmin, -, hnp, -⟩, -⟩ := h
  have hpos : 0 < σ.totalLen := Nat.lt_of_lt_of_le (by decide) hmin
  exact segOff_lt_of_le_numPacketsOf hpos (hnp ▸ hnext)

/-- Under the invariant the next segment of a receiver is not out of its buffer's range. -/
theorem reasm_ne_none (h : SessionInv cfg clock σ) (hrole : σ.role = .receiver) : reasm σ σ.nextSeq p ≠ none := by
  rw [reasm_of_next (segOff_lt_of_receiver h hrole).le (nextSeq_le_numPackets_of_receiver h hrole)]
  nofun

/-- Under the invariant a receiver that stores its last segment has all its bytes. -/
theorem exists_read_of_last (h : SessionInv cfg clock σ) (hrole : σ.role = .receiver)
    (hlast : σ.numPackets ≤ σ.nextSeq) (hp : p.length = 7) :
    ∃ d, Memory.readBytes (storeSegment σ p).buf 0 σ.totalLen = some d := by
  have hoff := segOff_lt_of_receiver h hrole
  have hnext := nextSeq_le_numPackets_of_receiver h hrole
  obtain ⟨-, ⟨-, -, hnp, -⟩, -, hbuf, -⟩ := h
  obtain ⟨old, hlen, hholds⟩ := Memory.exists_holds hbuf
  have hold := hholds.readBytes
  rw [hlen, writtenBytes, hrole] at hold
  exact ⟨_, readBytes_storeSegment_last hholds.1 hold hoff (by omega) hp⟩

end

/-- The end of a receiver, after the moves to u. -/
theorem finishOk_performs (hmoves : Moves W s u) (hσ : slotAt u i = some σ) (hsame : sameTransfer σ τ)
    (hrole : σ.role = .receiver) (hread : W → Inv s → ∃ d, Memory.readBytes τ.buf 0 σ.totalLen = some d) :
    Performs W none s (finishOk i τ u) := by
  obtain ⟨hrole', -, -, -, -, -, hlen, -⟩ := id hsame
  cases hd : Memory.readBytes τ.buf 0 τ.totalLen with
  | some d =>
    rw [finishOk_of_read (hrole'.trans hrole) hd]
    exact .of_ret (hmoves.tail (.finished hσ hsame _)) .ok
  | none =>
    have hstop : finishOk i τ u = .refused .unwrittenRead := by
      simp [finishOk, finish, hrole', hrole, memRead, hd]
    rw [hstop]
    refine .refused _ fun hW hs => ?_
    obtain ⟨d, hd'⟩ := hread hW hs
    rw [hlen] at hd
    exact nomatch hd.symm.trans hd'

theorem dtAtSlot_performs (hp : W → p.length = 7) (hσ : slotAt s i = some σ) (hrole : σ.role = .receiver) (seq : Nat) :
    Performs W none s (dtAtSlot seq p i σ s) := by
  by_cases htakes : takesDt σ = true
  swap
  · rw [dtAtSlot, if_neg htakes]
    exact .refused _ fun _ hs => htakes (takesDt_of_sessionInv (hs.sessionInv hσ) hrole)
  by_cases hseq : seq = σ.nextSeq
  swap
  · rw [dtAtSlot_of_other htakes hseq]
    exact .of_ret (.of_move (.aborted hσ (sameTransfer_refl σ) _)) _
  subst hseq
  obtain hnone | ⟨haccept, hlt⟩ | ⟨hcomplete, hlast⟩ := reasm_next_cases σ p
  · rw [dtAtSlot, if_pos htakes, hnone]
    exact .fault _ fun _ hs => reasm_ne_none (hs.sessionInv hσ) hrole hnone
  · rw [dtAtSlot_of_accept htakes haccept]
    exact .of_ret (.of_move (.advanced hσ (.of_stored hp hrole hlt _))) _
  · have hread : W → Inv s → ∃ d, Memory.readBytes (storeSegment σ p).buf 0 σ.totalLen = some d := fun hW hs =>
      exists_read_of_last (hs.sessionInv hσ) hrole hlast (hp hW)
    cases hmode : σ.mode with
    | broadcast =>
      rw [dtAtSlot_of_complete_broadcast htakes hcomplete hmode]
      exact finishOk_performs .refl hσ (sameTransfer_refl σ) hrole hread
    | connection =>
      rw [dtAtSlot_of_complete_connection htakes hcomplete hmode, dtCompleteConnection_eq rfl]
      split_ifs
      · exact finishOk_performs (.of_move (.sent _)) ((slotAt_tx ..).trans hσ) (sameTransfer_refl σ) hrole hread
      · exact .of_ret ((Moves.of_move (.sent _)).tail
          (.aborted ((slotAt_tx ..).trans hσ) (sameTransfer_refl σ) _)) _

theorem rxDt_performs (hp : W → p.length = 7) (sa da : Addr) (seq : Nat) (s : State) :
    Performs W none s (rxDt sa da seq p s) := by
  cases hi : lookup sa da .receiver s with
  | none =>
    rw [rxDt, hi]
    exact .of_ret .refl _
  | some i =>
    obtain ⟨σ, hσ, -, -, hrole⟩ := lookup_spec hi
    rw [rxDt, hi]
    simp only [hσ]
    exact dtAtSlot_performs hp hσ hrole seq

end

end Sys2Proof.Machine
end

section
/-! What each rule over owners, CANCEL and the rules that create a session make of the table, as `Performs` says
(43_session_table.md R237, R238, R240–R245). -/

namespace Sys2Proof.Machine

/-! ### The rules over owners and CANCEL (43_session_table.md R238, R242–R245) -/

section
variable {W : Prop}

/-- Steps of a fold that each make moves make moves together; `view` gives the state of what is folded. -/
theorem Moves.of_foldl {α β : Type} {op : β → α → β} {view : β → State}
    (h : ∀ b x, Moves W (view b) (view (op b x))) (xs : List α) (b : β) : Moves W (view b) (view (xs.foldl op b)) := by
  induction xs generalizing b with
  | nil => exact .refl
  | cons x xs ih => exact (h b x).trans (ih (op b x))

theorem peerAbortAt_moves (reason : Byte) (s : State) (i : Nat) : Moves W s (peerAbortAt reason s i) := by
  unfold peerAbortAt
  split
  · next σ hσ => exact .of_move (.aborted hσ (sameTransfer_refl σ) _)
  · exact .refl

theorem malformedAt_moves (s : State) (i : Nat) : Moves W s (malformedAt s i) := by
  cases hσ : slotAt s i with
  | none => rw [malformedAt_of_free hσ]
  | some σ =>
    rw [malformedAt_of_slot hσ]
    exact .of_move (.aborted hσ (sameTransfer_refl σ) _)

theorem ctsAwaited_moves {s : State} {i : Nat} {σ : Session} (hσ : slotAt s i = some σ)
    (hawaits : awaitsCts s.cfg σ = true) (n nextSeq : Nat) : Moves W s (ctsAwaited n nextSeq i σ s).2 := by
  unfold ctsAwaited
  split_ifs with hhold hgrant
  · obtain ⟨⟨-, -, hstate⟩, -⟩ := (awaitsCts_eq_true_iff ..).1 hawaits
    exact .of_move (.advanced hσ (.of_hold hstate _))
  · exact .of_move (.advanced hσ (.of_grant hhold hawaits))
  · exact .of_move (.aborted hσ (sameTransfer_refl σ) _)

theorem ctsAt_moves (n nextSeq : Nat) (acc : Status × State) (i : Nat) :
    Moves W acc.2 (ctsAt n nextSeq acc i).2 := by
  unfold ctsAt
  split
  · next σ hσ =>
    split_ifs with hawaits
    · exact ctsAwaited_moves hσ hawaits n nextSeq
    · exact .refl
  · exact .refl

theorem rxCts_performs (sa da : Addr) (n nextSeq : Nat) (pgn : Pgn) (s : State) :
    Performs W none s (rxCts sa da n nextSeq pgn s) := by
  unfold rxCts
  split
  · exact .of_ret .refl _
  · exact .of_ret (.of_foldl (view := Prod.snd) (ctsAt_moves n nextSeq) _ (.ignored, s)) _

theorem rxAbort_performs (sa da : Addr) (reason : Byte) (pgn : Pgn) (s : State) :
    Performs W none s (rxAbort sa da reason pgn s) := by
  unfold rxAbort
  split
  · exact .of_ret .refl _
  · exact .of_ret (.of_foldl (view := id) (peerAbortAt_moves reason) _ s) _

theorem rxMalformed_performs (sa da : Addr) (pgn : Pgn) (s : State) :
    Performs W none s (rxMalformed sa da pgn s) :=
  .of_ret (.of_foldl (view := id) malformedAt_moves _ s) _

theorem rxEomAck_performs (sa da : Addr) (pgn : Pgn) (s : State) : Performs W none s (rxEomAck sa da pgn s) := by
  rw [rxEomAck_eq]
  exact .of_ret .refl _

theorem cancelRule_performs (src dst : Addr) (role : Role) (s : State) :
    Performs W none s (cancelRule src dst role s) := by
  cases hi : lookup src dst role s with
  | none =>
    rw [cancelRule_of_not_found hi]
    exact .of_ret .refl _
  | some i =>
    obtain ⟨σ, hσ, -⟩ := lookup_spec hi
    rw [cancelRule_of_found hi hσ]
    exact .of_ret (.of_move (.aborted hσ (sameTransfer_refl σ) _)) _

/-! ### The rules that create a session (43_session_table.md R237, R240, R241) -/

/-- The table is no part of what a tx reads or writes. -/
theorem tx_setSlot (f : Frame) (i : Nat) (v : Option Session) (s : State) :
    (tx f (setSlot i v s)).2 = setSlot i v (tx f s).2 := by
  unfold tx
  rw [show (setSlot i v s).answers = s.answers from rfl]
  split <;> rfl

theorem setSlot_setSlot (i : Nat) (v w : Option Session) (s : State) :
    setSlot i w (setSlot i v s) = setSlot i w s := by
  simp only [setSlot, List.set_set]

/-- What a new session must bring to meet the invariant, beside what allocation writes (43_session_table.md R233). -/
theorem sessionInv_new {cfg : Config} {clock : Millis} {role : Role} {mode : Mode} {src dst : Addr} {prio : BitVec 3}
    {pgn : Pgn} {len np : Nat} {st : SessState} {dl nt : Option Millis} {buf : Memory}
    (hvalid : validLength len np = true) (hrx : role = .receiver → len ≤ cfg.maxRxLen)
    (hallowed : allowedState role mode st = true) (hst : st ≠ .awaitingEom) (hcts : st = .rtsSent → cfg.waitCts = true)
    (hdl : dl.isSome = timedState st) (hnt : nt.isSome = decide (role = .sender ∧ mode = .broadcast))
    (hsrc : src ≠ 0xFF) (hdst : dst = 0xFF ↔ mode = .broadcast)
    (hbuf : buf.map Prod.fst = List.range (match role with | .sender => len | .receiver => 0)) :
    SessionInv cfg clock { newSession role mode src dst prio pgn len np clock with
      state := st, deadline := dl, nextTx := nt, buf := buf } := by
  obtain ⟨hmin, hmax, rfl⟩ := of_decide_eq_true hvalid
  have hnp : 1 ≤ numPacketsOf len := by
    have := numPacketsOf_bounds len
    simp only [lMin] at hmin
    omega
  refine ⟨hallowed, ⟨hmin, hmax, rfl, hrx⟩, ?_, ?_, ⟨hdl, hnt, le_rfl⟩, hsrc, hdst⟩
  · exact ⟨le_rfl, hnp, le_rfl, fun _ => hnp, fun h => absurd h hst, fun _ => hnp, hcts, fun _ => rfl⟩
  · cases role <;> exact hbuf

/-- The return of a command whose new session ended with its first frame. -/
theorem Performs.of_failed {key : Addr × Addr × Role} {s : State} {i : Nat} {σ : Session} (hkey : sessionKey σ = key)
    (hi : alloc s = some i) (f : Frame) :
    Performs W (some key) s (ret .ioError (abort i σ .ioError (tx f (setSlot i (some σ) s)).2)) :=
  .next (.failed (congrArg some hkey.symm) hi f)

theorem rxRts_performs {sa : Addr} (hsa : sa ≠ 0xFF) (da : Addr) (len np : Nat) (pgn : Pgn) (s : State) :
    Performs W (some (sa, da, .receiver)) s (rxRts sa da len np pgn s) := by
  by_cases hbad : da = 0xFF ∨ validLength len np = false
  · rw [rxRts_of_bad_fields hbad]
    exact .of_refusal .refl nofun nofun
  obtain ⟨hda, hvalid⟩ := not_or.1 hbad
  replace hvalid : validLength len np = true := by simpa using hvalid
  by_cases hfree : lookup sa da .receiver s = none
  swap
  · rw [rxRts_of_existing hda hvalid hfree, rej_eq]
    exact .of_refusal (.of_move (.sent _)) nofun nofun
  by_cases hroom : s.cfg.maxRxLen < len ∨ alloc s = none
  · rw [rxRts_of_no_room hda hvalid hfree hroom, rej_eq]
    exact .of_refusal (.of_move (.sent _)) nofun nofun
  obtain ⟨hrx, halloc⟩ := not_or.1 hroom
  obtain ⟨i, hi⟩ := Option.ne_none_iff_exists'.1 halloc
  rw [rxRts_of_accepted hda hvalid hfree (not_lt.1 hrx) hi, startReceiverConnection_eq rfl]
  split_ifs with hok
  · rw [tx_setSlot, setSlot_setSlot]
    refine .next (.started rfl hi hfree (.sent _) ⟨rfl, rfl, ?_⟩ _)
    exact sessionInv_new hvalid (fun _ => not_lt.1 hrx) rfl nofun nofun rfl rfl hsa (iff_of_false hda nofun) rfl
  · exact .of_failed (by rfl) hi _

theorem rxBam_of_bad_fields {sa da : Addr} {len np : Nat} {pgn : Pgn} {s : State}
    (h : da ≠ 0xFF ∨ validLength len np = false) : rxBam sa da len np pgn s = ret .badFields s :=
  if_pos h

theorem rxBam_of_existing {sa : Addr} {len np : Nat} {pgn : Pgn} {s : State} (hvalid : validLength len np = true)
    (hbusy : lookup sa 0xFF .receiver s ≠ none) : rxBam sa 0xFF len np pgn s = ret .busy s := by
  rw [rxBam, if_neg (by simp [hvalid]), if_pos (Option.isSome_iff_ne_none.2 hbusy)]

theorem rxBam_of_no_room {sa : Addr} {len np : Nat} {pgn : Pgn} {s : State} (hvalid : validLength len np = true)
    (hfree : lookup sa 0xFF .receiver s = none) (hroom : s.cfg.maxRxLen < len ∨ alloc s = none) :
    rxBam sa 0xFF len np pgn s = ret .resources s := by
  rw [rxBam, if_neg (by simp [hvalid]), hfree, if_neg (by simp)]
  split_ifs with hlong
  · rfl
  · rw [hroom.resolve_left hlong]

theorem rxBam_performs {sa : Addr} (hsa : sa ≠ 0xFF) (da : Addr) (len np : Nat) (pgn : Pgn) (s : State) :
    Performs W (some (sa, 0xFF, .receiver)) s (rxBam sa da len np pgn s) := by
  by_cases hbad : da ≠ 0xFF ∨ validLength len np = false
  · rw [rxBam_of_bad_fields hbad]
    exact .of_refusal .refl nofun nofun
  obtain ⟨rfl, hvalid⟩ : da = 0xFF ∧ validLength len np = true := by simpa using hbad
  by_cases hfree : lookup sa 0xFF .receiver s = none
  swap
  · rw [rxBam_of_existing hvalid hfree]
    exact .of_refusal .refl nofun nofun
  by_cases hroom : s.cfg.maxRxLen < len ∨ alloc s = none
  · rw [rxBam_of_no_room hvalid hfree hroom]
    exact .of_refusal .refl nofun nofun
  obtain ⟨hrx, halloc⟩ := not_or.1 hroom
  obtain ⟨i, hi⟩ := Option.ne_none_iff_exists'.1 halloc
  rw [rxBam_of_accepted hvalid hfree (not_lt.1 hrx) hi, startReceiverBroadcast, setSlot_setSlot]
  refine .next (.started rfl hi hfree .silent ⟨rfl, rfl, ?_⟩ _)
  exact sessionInv_new hvalid (fun _ => not_lt.1 hrx) rfl nofun nofun rfl rfl hsa (iff_of_true rfl rfl) rfl

section
variable {src dst : Addr} {prio : BitVec 3} {pgn : Pgn} {payload : List Byte} {s : State}

theorem sendRule_of_bad_length (h : payload.length < 9 ∨ 1785 < payload.length) :
    sendRule src dst prio pgn payload s = ret .badLength s :=
  if_pos h

theorem sendRule_of_global (hlen : ¬(payload.length < 9 ∨ 1785 < payload.length)) :
    sendRule 0xFF dst prio pgn payload s = ret .badAddress s := by
  rw [sendRule, if_neg hlen, if_pos rfl]

theorem sendRule_of_existing (hlen : ¬(payload.length < 9 ∨ 1785 < payload.length)) (hsrc : src ≠ 0xFF)
    (hbusy : lookup src dst .sender s ≠ none) : sendRule src dst prio pgn payload s = ret .busy s := by
  rw [sendRule, if_neg hlen, if_neg hsrc, if_pos (Option.isSome_iff_ne_none.2 hbusy)]

theorem sendRule_of_full (hlen : ¬(payload.length < 9 ∨ 1785 < payload.length)) (hsrc : src ≠ 0xFF)
    (hfree : lookup src dst .sender s = none) (hfull : alloc s = none) :
    sendRule src dst prio pgn payload s = ret .resources s := by
  rw [sendRule, if_neg hlen, if_neg hsrc, hfree, if_neg (by simp), hfull]

end

/-- The new sender after its RTS, with and without waiting for a CTS. -/
theorem sessionInv_afterRts {cfg : Config} {clock : Millis} {src dst : Addr} {prio : BitVec 3} {pgn : Pgn}
    {payload : List Byte} (hvalid : validLength payload.length (numPacketsOf payload.length) = true)
    (hsrc : src ≠ 0xFF) (hdst : dst ≠ 0xFF) :
    SessionInv cfg clock (afterRts cfg clock (newSender .connection src dst prio pgn payload clock)) := by
  have hbuf := (newSender_holds .connection src dst prio pgn payload clock).map_fst
  have hrts : afterRts cfg clock (newSender .connection src dst prio pgn payload clock) =
      { newSession .sender .connection src dst prio pgn payload.length (numPacketsOf payload.length) clock with
        state := if cfg.waitCts then .rtsSent else .sendingData
        deadline := if cfg.waitCts then some (clock + cfg.t3) else none
        nextTx := none
        buf := Memory.writeBytes [] 0 payload } := by
    simp [afterRts, newSender, newSession]
  rw [hrts]
  cases hwait : cfg.waitCts with
  | false => exact sessionInv_new hvalid nofun rfl nofun nofun rfl rfl hsrc (iff_of_false hdst nofun) hbuf
  | true => exact sessionInv_new hvalid nofun rfl nofun (fun _ => hwait) rfl rfl hsrc (iff_of_false hdst nofun) hbuf

/-- The START of the sender that a SEND allocates, in either mode. -/
theorem startSender_performs {src dst : Addr} {prio : BitVec 3} {pgn : Pgn} {payload : List Byte} {s : State} {i : Nat}
    (hvalid : validLength payload.length (numPacketsOf payload.length) = true) (hsrc : src ≠ 0xFF)
    (hfree : lookup src dst .sender s = none) (hi : alloc s = some i) : Performs W (some (src, dst, .sender)) s
      (startSender i (newSender (senderMode dst) src dst prio pgn payload s.clock)
        (setSlot i (some (newSender (senderMode dst) src dst prio pgn payload s.clock)) s)) := by
  by_cases hdst : dst = 0xFF
  · have hmode : senderMode dst = .broadcast := if_pos hdst
    rw [hmode]
    change Performs W _ s (startSenderBroadcast ..)
    rw [startSenderBroadcast_eq rfl]
    split_ifs
    · rw [tx_setSlot, setSlot_setSlot]
      refine .next (.started rfl hi hfree (.sent _) ⟨rfl, rfl, ?_⟩ _)
      exact sessionInv_new hvalid nofun rfl nofun nofun rfl rfl hsrc (iff_of_true hdst rfl)
        (newSender_holds .broadcast src dst prio pgn payload s.clock).map_fst
    · exact .of_failed (by rfl) hi _
  · have hmode : senderMode dst = .connection := if_neg hdst
    rw [hmode]
    change Performs W _ s (startSenderConnection ..)
    rw [startSenderConnection_eq rfl]
    split_ifs
    · rw [tx_setSlot, setSlot_setSlot]
      exact .next (.started rfl hi hfree (.sent _) ⟨rfl, rfl, sessionInv_afterRts hvalid hsrc hdst⟩ _)
    · exact .of_failed (by rfl) hi _

theorem sendRule_performs (src dst : Addr) (prio : BitVec 3) (pgn : Pgn) (payload : List Byte) (s : State) :
    Performs W (some (src, dst, .sender)) s (sendRule src dst prio pgn payload s) := by
  by_cases hlen : payload.length < 9 ∨ 1785 < payload.length
  · rw [sendRule_of_bad_length hlen]
    exact .of_refusal .refl nofun nofun
  by_cases hsrc : src = 0xFF
  · rw [hsrc, sendRule_of_global hlen]
    exact .of_refusal .refl nofun nofun
  by_cases hfree : lookup src dst .sender s = none
  swap
  · rw [sendRule_of_existing hlen hsrc hfree]
    exact .of_refusal .refl nofun nofun
  cases hi : alloc s with
  | none =>
    rw [sendRule_of_full hlen hsrc hfree hi]
    exact .of_refusal .refl nofun nofun
  | some i =>
    obtain ⟨hmin, hmax⟩ : 9 ≤ payload.length ∧ payload.length ≤ 1785 := by omega
    rw [sendRule_of_accepted hmin hmax hsrc hfree hi]
    exact startSender_performs (validLength_eq_true hmin hmax rfl) hsrc hfree hi

end

end Sys2Proof.Machine
end

section
/-! What a POLL makes of the table, as `Performs` says (43_session_table.md R247; 42_session_fsm.md R172–R176, R191). -/

namespace Sys2Proof.Machine

section
variable {W : Prop} {i : Nat} {s t : State} {σ τ : Session} {cfg : Config} {clock : Millis}

/-- A sender that keeps its transfer and its buffer: what is left to see are its state, its progress and its times. -/
theorem SessionInv.of_sender (h : SessionInv cfg clock σ) (hrole : σ.role = .sender) (hsame : sameTransfer σ τ)
    (hbuf : τ.buf = σ.buf) (hallowed : allowedState .sender σ.mode τ.state = true) (hprog : progressOk cfg τ)
    (hdeadline : τ.deadline.isSome = timedState τ.state) (hnextTx : τ.nextTx.isSome = σ.nextTx.isSome) :
    SessionInv cfg clock τ := by
  obtain ⟨hrole', hmode, hsrc, hdst, -, -, hlen, hnp, hcreated⟩ := hsame
  obtain ⟨-, hlength, -, hwritten, ⟨-, hpaced, hpast⟩, haddr⟩ := h
  rw [hrole] at hrole'
  refine ⟨by rw [hrole', hmode]; exact hallowed, ?_, hprog, ?_, ⟨hdeadline, ?_, hcreated ▸ hpast⟩, ?_⟩
  · rw [lengthOk, hlen, hnp, hrole', ← hrole]
    exact hlength
  · rw [bufferOk, writtenBytes, hrole] at hwritten
    rw [bufferOk, writtenBytes, hrole', hbuf, hlen]
    exact hwritten
  · rw [hnextTx, hpaced, hrole', hrole, hmode]
  · rw [addressOk, hsrc, hdst, hmode]
    exact haddr

/-- What follows a sent DT in connection mode keeps the invariant: the next segment, the wait at the end of a window, or
the wait for the end. -/
theorem sessionInv_afterDt (h : SessionInv cfg clock σ) (hrole : σ.role = .sender) (hmode : σ.mode = .connection)
    (hstate : σ.state = .sendingData) : SessionInv cfg clock (afterDt cfg clock σ) := by
  obtain ⟨hsame, hbuf⟩ := sameTransfer_afterDt cfg clock σ
  obtain ⟨-, -, ⟨-, hwindow, hwindowEnd, hsending, -, -, -, hall⟩, -⟩ := id h
  have hle := hsending hstate
  have hwait : σ.nextSeq ≠ σ.numPackets → σ.nextSeq = σ.windowEnd → cfg.waitCts = true := fun hmore hend => by
    by_contra hno
    exact hmore (hend.trans (hall (.inr (by simpa using hno))))
  refine h.of_sender hrole hsame hbuf ?_ ?_ ?_ ?_ <;> rw [afterDt_eq h hstate]
  · rw [hmode]
    dsimp only
    split_ifs <;> rfl
  · refine ⟨Nat.le_add_left .., hwindow, hwindowEnd, fun hst => ?_, fun hst => ?_, fun hst => ?_, fun hst => ?_,
      hall⟩ <;> dsimp only at hst ⊢ <;> split_ifs at hst with hlast hend
    · omega
    · rw [hlast]
    · exact absurd rfl hst
    · omega
    · omega
    · exact hwait hlast hend
  · dsimp only
    by_cases hlast : σ.nextSeq = σ.numPackets
    · rw [if_pos hlast, if_neg fun hboth => hboth.1 hlast]
      rfl
    by_cases hend : σ.nextSeq = σ.windowEnd
    · rw [if_neg hlast, if_pos hend, if_pos ⟨hlast, hend⟩]
      rfl
    · rw [if_neg hlast, if_neg hend, if_neg fun hboth => hend hboth.2]
      rfl

/-- A broadcast sender with a segment left keeps the invariant: its window is the whole message. -/
theorem sessionInv_afterBamDt (h : SessionInv cfg clock σ) (hrole : σ.role = .sender) (hmode : σ.mode = .broadcast)
    (hlt : σ.nextSeq + 1 ≤ σ.numPackets) : SessionInv cfg clock (afterBamDt cfg clock σ) := by
  have hstate := sendingData_of_broadcast h hrole hmode
  obtain ⟨-, -, ⟨hfirst, hwindow, hwindowEnd, -, -, -, -, hall⟩, -, ⟨hdeadline, hnextTx, -⟩, -⟩ := id h
  have hwhole := hall (.inl hmode)
  refine h.of_sender hrole (sameTransfer_refl σ) rfl ?_ ?_ hdeadline ?_
  · rw [afterBamDt_state, hmode, hstate]
    rfl
  · refine ⟨Nat.le_add_left .., hwindow, hwindowEnd, fun _ => hwhole ▸ hlt, fun hawaiting => ?_, fun _ => hlt,
      fun hrts => ?_, hall⟩
    · exact nomatch hstate.symm.trans hawaiting
    · exact nomatch hstate.symm.trans hrts
  · rw [hnextTx, hrole, hmode]
    rfl

/-- What one visit does to a session that meets its part of the invariant, by the frame that is due. -/
inductive Visit (i : Nat) (σ : Session) (s : State) : Option Frame → State → Prop where
  | idle : Visit i σ s none s
  | failed (f : Frame) : Visit i σ s (some f) (abort i σ .ioError (tx f s).2)
  | advanced (f : Frame) {τ : Session} (hτ : SessionInv s.cfg s.clock τ) :
    Visit i σ s (some f) (setSlot i (some τ) (tx f s).2)
  | finished (f : Frame) : Visit i σ s (some f) (free i (emit (endReport i σ .done .none none .none none) (tx f s).2))

theorem dueFrame_of_receiver (hrole : σ.role = .receiver) : dueFrame cfg clock σ = none := by
  rw [dueFrame, hrole]

theorem dueFrame_of_sending {d : Data8} (hrole : σ.role = .sender) (hmode : σ.mode = .connection)
    (hstate : σ.state = .sendingData) (hd : frag σ σ.nextSeq = some d) :
    dueFrame cfg clock σ = some (senderDt cfg σ d) := by
  simp only [dueFrame, hrole, hmode, hstate, hd, Option.map_some]

theorem dueFrame_of_awaitingEom (hrole : σ.role = .sender) (hmode : σ.mode = .connection)
    (hstate : σ.state = .awaitingEom) : dueFrame cfg clock σ =
      some ⟨true, mkId σ.prio cfg.pgnTpcm σ.dst σ.src, encEomAck σ.totalLen σ.numPackets σ.pgn⟩ := by
  simp only [dueFrame, hrole, hmode, hstate]

theorem dueFrame_of_rtsSent (hrole : σ.role = .sender) (hmode : σ.mode = .connection) (hstate : σ.state = .rtsSent) :
    dueFrame cfg clock σ = none := by
  simp only [dueFrame, hrole, hmode, hstate]

theorem dueFrame_of_broadcast {d : Data8} {due : Millis} (hrole : σ.role = .sender) (hmode : σ.mode = .broadcast)
    (hstate : σ.state = .sendingData) (hd : frag σ σ.nextSeq = some d) (hpaced : σ.nextTx = some due) :
    dueFrame cfg clock σ = if clock < due then none else some (senderDt cfg σ d) := by
  simp only [dueFrame, hrole, hmode, hstate, hpaced, hd, Option.map_some, ← not_lt, ite_not]

/-- Under the invariant a visit sends the due frame and nothing else. -/
theorem serviceSlot_visit (hσ : slotAt s i = some σ) (hinv : SessionInv s.cfg s.clock σ) :
    ∃ t, serviceSlot i s = .next t ∧ Visit i σ s (dueFrame s.cfg s.clock σ) t := by
  cases hrole : σ.role with
  | receiver => exact ⟨s, serviceSlot_of_receiver hσ hrole, dueFrame_of_receiver hrole ▸ .idle⟩
  | sender =>
    rw [serviceSlot_of_sender hσ hrole]
    rcases sender_cases hinv hrole with ⟨hmode, hstate | hstate | hstate⟩ | ⟨hmode, hstate⟩
    · obtain ⟨d, hd⟩ := exists_frag_of_sending hinv hrole hstate
      rw [serviceSender_of_sending hmode hstate, serviceSending_eq hd (dtf_of_sender hrole ..),
        dueFrame_of_sending hrole hmode hstate hd]
      refine ⟨_, rfl, ?_⟩
      split_ifs
      · exact .advanced _ (sessionInv_afterDt hinv hrole hmode hstate)
      · exact .failed _
    · rw [serviceSender_of_awaitingEom hmode hstate, serviceAwaitingEom_eq hrole (cmf_of_sender hrole ..),
        dueFrame_of_awaitingEom hrole hmode hstate]
      refine ⟨_, rfl, ?_⟩
      split_ifs
      · exact .finished _
      · exact .failed _
    · exact ⟨s, serviceSender_of_rtsSent hmode hstate, dueFrame_of_rtsSent hrole hmode hstate ▸ .idle⟩
    · obtain ⟨d, hd⟩ := exists_frag_of_sending hinv hrole hstate
      obtain ⟨-, -, -, -, ⟨-, hnextTx, -⟩, -⟩ := id hinv
      obtain ⟨due, hpaced⟩ := Option.isSome_iff_exists.1 (hnextTx.trans (decide_eq_true ⟨hrole, hmode⟩))
      rw [serviceSender_of_broadcast hmode hstate hpaced, sendBamDt_eq hrole hd (dtf_of_sender hrole ..),
        dueFrame_of_broadcast hrole hmode hstate hd hpaced]
      split_ifs with hearly hok hlast
      · exact ⟨s, rfl, .idle⟩
      · exact ⟨_, rfl, .finished _⟩
      · exact ⟨_, rfl, .advanced _ (sessionInv_afterBamDt hinv hrole hmode (not_lt.1 hlast))⟩
      · exact ⟨_, rfl, .failed _⟩

theorem Visit.sessionInv {due : Option Frame} (h : Visit i σ s due t) (hσ : slotAt s i = some σ)
    (hinv : SessionInv s.cfg s.clock σ) (hτ : slotAt t i = some τ) : SessionInv s.cfg s.clock τ := by
  cases h with
  | idle => exact Option.some.inj (hσ.symm.trans hτ) ▸ hinv
  | failed f => exact nomatch ((slotAt_abort ..).trans (if_pos rfl)).symm.trans hτ
  | advanced f hτ' =>
    rw [slotAt_setSlot_same (by simpa using lt_of_slotAt hσ)] at hτ
    exact Option.some.inj hτ ▸ hτ'
  | finished f => exact nomatch (slotAt_free_same ..).symm.trans hτ

theorem Visit.framesOf_trace {due : Option Frame} (h : Visit i σ s due t) :
    framesOf t.trace = framesOf s.trace ++ due.toList := by
  cases h with
  | idle => simp
  | failed f => rw [trace_of_failed_tx, framesOf_append]; rfl
  | advanced f hτ' => rw [setSlot_trace, tx_trace, framesOf_append]; rfl
  | finished f => rw [free_trace, emit_trace, tx_trace, List.append_assoc, framesOf_append]; rfl

/-- A visit makes moves, and where its session meets the invariant so does what it leaves. -/
theorem serviceSlot_moves (h : serviceSlot i s = .next t) : Moves W s t := by
  cases serviceSlot_serviced h with
  | idle => exact .refl
  | failed σ f hσ hrole hr =>
    exact (Moves.of_move (.sent f)).tail (.aborted ((slotAt_tx ..).trans hσ) (sameTransfer_refl σ) _)
  | advanced σ τ f hσ hrole hr hsame hbuf =>
    refine (Moves.of_move (.sent f)).tail
      (.advanced ((slotAt_tx ..).trans hσ) ⟨hsame, fun _ => hbuf, (hbuf ▸ ·), fun _ hinv => ?_⟩)
    rw [tx_cfg, tx_clock] at hinv ⊢
    obtain ⟨t, ht, hvisit⟩ := serviceSlot_visit hσ hinv
    obtain rfl := Host.Outcome.next.inj (h.symm.trans ht)
    exact hvisit.sessionInv hσ hinv (slotAt_setSlot_same (by simpa using lt_of_slotAt hσ) _)
  | finished σ f hσ hrole hr =>
    exact (Moves.of_move (.sent f)).tail (.finished ((slotAt_tx ..).trans hσ) (sameTransfer_refl σ) _)

/-- The visits of a list of slots stop only where a visit meets a session outside the invariant. -/
theorem pollSlots_performs (is : List Nat) {s u : State} (hmoves : Moves W s u) :
    Performs W none s (pollSlots is u) := by
  induction is generalizing u with
  | nil => exact .of_ret hmoves _
  | cons i is ih =>
    have hcompletes : W → Inv s → ∃ v, serviceSlot i u = .next v := fun hW hs =>
      serviceSlot_completes fun σ hσ => (hmoves.inv hW hs).sessionInv hσ
    rw [pollSlots]
    cases hv : serviceSlot i u with
    | next v => exact ih (hmoves.trans (serviceSlot_moves hv))
    | fault r => exact .fault r fun hW hs => let ⟨_, h⟩ := hcompletes hW hs; nomatch hv.symm.trans h
    | refused r => exact .refused r fun hW hs => let ⟨_, h⟩ := hcompletes hW hs; nomatch hv.symm.trans h

end

end Sys2Proof.Machine
end

section
/-! RX_FRAME and the row of its frame (43_session_table.md R239), and what every instruction makes of the table after
its envelope, as `Performs` says. -/

namespace Sys2Proof.Machine

theorem fromSource_performs {W : Prop} {sa : Addr} {key : Option (Addr × Addr × Role)} {s : State}
    {rule : State → Host.Outcome State Fault Refusal} (h : sa ≠ 0xFF → Performs W key s (rule s)) :
    Performs W key s (fromSource sa rule s) := by
  by_cases hsa : sa = 0xFF
  · rw [hsa, fromSource_global]
    exact .of_refusal .refl nofun nofun
  · rw [fromSource_of_ne hsa]
    exact h hsa

/-! ### RX_FRAME is the row its frame decodes to (43_session_table.md R239) -/

theorem decode_frame_of_cm {cfg : Config} {f : Frame} (h : classify cfg f = .cm) (now : Millis) :
    decode cfg (.frame now f) = instrOfCm now (sourceAddr f.id) (destAddr f.id) (decCm f.data) := by
  rw [decode, decodeFrame, h]

theorem decode_frame_of_dt {cfg : Config} {f : Frame} (h : classify cfg f = .dt) (now : Millis) :
    decode cfg (.frame now f) =
      .ok (.dt now (sourceAddr f.id) (destAddr f.id) (dtSeq f.data) (dtPayload f.data)) := by
  rw [decode, decodeFrame, h]

theorem decode_frame_of_notTp {cfg : Config} {f : Frame} (h : classify cfg f = .notTp) (now : Millis) :
    decode cfg (.frame now f) = .error .notTp := by
  rw [decode, decodeFrame, h]

/-- The meaning of a decoded CM message's row is the rule of its kind, after the envelope and the check of SA. -/
theorem exec_instrOfCm {now : Millis} {sa da : Addr} {m : CmMsg} {i : Instr} (h : instrOfCm now sa da m = .ok i)
    (s : State) : exec i s = fromSource sa (rxCm sa da m) (beginCommand now s) := by
  cases m with
  | malformed ctl pgn => cases h
  | _ => cases h; rfl

theorem rxClassified_of_class_dt {f : Frame} {s : State} (h : classify s.cfg f = .dt) : rxClassified f s =
    fromSource (sourceAddr f.id) (rxDt (sourceAddr f.id) (destAddr f.id) (dtSeq f.data) (dtPayload f.data)) s := by
  rw [rxClassified, h]

theorem rxClassified_of_class_cm {f : Frame} {s : State} (h : classify s.cfg f = .cm) : rxClassified f s =
    fromSource (sourceAddr f.id) (rxCm (sourceAddr f.id) (destAddr f.id) (decCm f.data)) s := by
  rw [rxClassified, h]

theorem rxClassified_of_notTp {f : Frame} {s : State} (h : classify s.cfg f = .notTp) :
    rxClassified f s = ret .notTp s := by
  rw [rxClassified, h]

theorem exec_rxFrame_of_decode {now : Millis} {f : Frame} {i : Instr} {s : State}
    (h : decode s.cfg (.frame now f) = .ok i) : exec (.rxFrame now f) s = exec i s := by
  rw [exec_rxFrame]
  cases hclass : classify s.cfg f with
  | cm =>
    rw [decode_frame_of_cm hclass] at h
    rw [exec_instrOfCm h, rxClassified_of_class_cm (by rwa [beginCommand_cfg])]
  | dt =>
    rw [decode_frame_of_dt hclass] at h
    obtain rfl := Except.ok.inj h
    rw [exec_dt, rxClassified_of_class_dt (by rwa [beginCommand_cfg])]
  | notTp =>
    rw [decode_frame_of_notTp hclass] at h
    cases h

/-- What a frame decodes to: a row of the table for received frames, delivered at the frame's time, whose operands fit
their fields since they come from the frame's bytes. -/
structure FrameRow (now : Millis) (i : Instr) : Prop where
  wellFormed : i.wellFormed = true
  nowOf : nowOf i = now
  not_rxFrame : ∀ now' f, i ≠ .rxFrame now' f

theorem fitsLen_le16 (lo hi : Byte) : fitsLen (le16 lo hi) = true := by
  have hlo : lo.toNat < 256 := lo.isLt
  have hhi : hi.toNat < 256 := hi.isLt
  rw [fitsLen, le16, decide_eq_true_iff]
  omega

theorem fitsByte_toNat (b : Byte) : fitsByte b.toNat = true := decide_eq_true b.isLt

theorem frameRow_of_decCm {now : Millis} {sa da : Addr} {d : Data8} {i : Instr}
    (h : instrOfCm now sa da (decCm d) = .ok i) : FrameRow now i := by
  simp only [decCm] at h
  split_ifs at h <;> cases h
  · exact ⟨Bool.and_eq_true_iff.2 ⟨fitsLen_le16 .., fitsByte_toNat _⟩, rfl, nofun⟩
  · exact ⟨Bool.and_eq_true_iff.2 ⟨fitsByte_toNat _, fitsByte_toNat _⟩, rfl, nofun⟩
  · exact ⟨Bool.and_eq_true_iff.2 ⟨fitsLen_le16 .., fitsByte_toNat _⟩, rfl, nofun⟩
  · exact ⟨Bool.and_eq_true_iff.2 ⟨fitsLen_le16 .., fitsByte_toNat _⟩, rfl, nofun⟩
  · exact ⟨rfl, rfl, nofun⟩

theorem frameRow_of_decode {cfg : Config} {now : Millis} {f : Frame} {i : Instr}
    (h : decode cfg (.frame now f) = .ok i) : FrameRow now i := by
  cases hclass : classify cfg f with
  | cm =>
    rw [decode_frame_of_cm hclass] at h
    exact frameRow_of_decCm h
  | dt =>
    rw [decode_frame_of_dt hclass] at h
    obtain rfl := Except.ok.inj h
    exact ⟨Bool.and_eq_true_iff.2 ⟨fitsByte_toNat _, rfl⟩, rfl, nofun⟩
  | notTp =>
    rw [decode_frame_of_notTp hclass] at h
    cases h

/-- Every operand of a decoded input word fits its field. -/
theorem wellFormed_of_decode {cfg : Config} {w : InputWord} {i : Instr} (h : decode cfg w = .ok i) :
    i.wellFormed = true := by
  cases w with
  | frame now f => exact (frameRow_of_decode h).wellFormed
  | command c =>
    rw [decode_command, decodeCommand] at h
    split_ifs at h <;> cases h <;> rfl

/-- A frame that is no row runs a rule that creates no session. -/
theorem rxClassified_performs_of_error {W : Prop} {now : Millis} {f : Frame} {e : Reject} {s : State}
    (h : decode s.cfg (.frame now f) = .error e) : Performs W none s (rxClassified f s) := by
  cases hclass : classify s.cfg f with
  | cm =>
    rw [decode_frame_of_cm hclass] at h
    rw [rxClassified_of_class_cm hclass]
    refine fromSource_performs fun _ => ?_
    cases hm : decCm f.data with
    | malformed ctl pgn => exact rxMalformed_performs ..
    | _ => rw [hm] at h; cases h
  | dt =>
    rw [decode_frame_of_dt hclass] at h
    cases h
  | notTp =>
    rw [rxClassified_of_notTp hclass]
    exact .of_refusal .refl nofun nofun

/-! ### Every instruction -/

/-- A row of the table that is not RX_FRAME. -/
theorem exec_row_performs {i : Instr} (h : ∀ now f, i ≠ .rxFrame now f) (cfg : Config) (s : State) :
    Performs (i.wellFormed = true) (requestedKey cfg i) (beginCommand (nowOf i) s) (exec i s) := by
  cases i with
  | cmRts now sa da len np pgn => exact fromSource_performs fun hsa => rxRts_performs hsa ..
  | cmCts now sa da n nextSeq pgn => exact fromSource_performs fun _ => rxCts_performs ..
  | cmEomAck now sa da len np pgn => exact fromSource_performs fun _ => rxEomAck_performs ..
  | cmBam now sa da len np pgn => exact fromSource_performs fun hsa => rxBam_performs hsa ..
  | cmAbort now sa da reason pgn => exact fromSource_performs fun _ => rxAbort_performs ..
  | dt now sa da seq p =>
    refine fromSource_performs fun _ => rxDt_performs (fun hwf => ?_) ..
    simp only [Instr.wellFormed, Bool.and_eq_true, decide_eq_true_eq] at hwf
    exact hwf.2
  | send now src dst prio pgn payload => exact sendRule_performs ..
  | cancel now src dst role => exact cancelRule_performs ..
  | rxFrame now f => exact absurd rfl (h now f)
  | poll now => exact pollSlots_performs _ .refl

theorem rowOf_of_ne {i : Instr} (h : ∀ now f, i ≠ .rxFrame now f) (cfg : Config) : rowOf cfg i = i := by
  cases i with
  | rxFrame now f => exact absurd rfl (h now f)
  | _ => rfl

theorem rowOf_rxFrame {cfg : Config} {now : Millis} {f : Frame} {i : Instr} (h : decode cfg (.frame now f) = .ok i) :
    rowOf cfg (.rxFrame now f) = i := by
  simp only [rowOf, h]

/-- What every instruction does, in every state. -/
theorem exec_performs (i : Instr) (s : State) :
    Performs (i.wellFormed = true) (requestedKey s.cfg i) (beginCommand (nowOf i) s) (exec i s) := by
  by_cases hrx : ∃ now f, i = .rxFrame now f
  swap
  · exact exec_row_performs (fun now f heq => hrx ⟨now, f, heq⟩) s.cfg s
  obtain ⟨now, f, rfl⟩ := hrx
  cases hdecode : decode s.cfg (.frame now f) with
  | error e =>
    have hkey : requestedKey s.cfg (.rxFrame now f) = none := by simp only [requestedKey, rowOf, hdecode]
    rw [hkey]
    exact rxClassified_performs_of_error (by rw [beginCommand_cfg]; exact hdecode)
  | ok k =>
    have hrow := frameRow_of_decode hdecode
    have hkey : requestedKey s.cfg (.rxFrame now f) = requestedKey s.cfg k := by
      simp only [requestedKey, rowOf_rxFrame hdecode, rowOf_of_ne hrow.not_rxFrame]
    have hperforms := exec_row_performs hrow.not_rxFrame s.cfg s
    rw [hrow.nowOf, hrow.wellFormed] at hperforms
    rw [exec_rxFrame_of_decode hdecode, hkey]
    exact hperforms

end Sys2Proof.Machine
end

section
/-! Facts about every instruction: O23 (43_session_table.md R235), O50 (10_state.md R24, R31), O42
(43_session_table.md R239), O56 (30_encoding.md R99), and O58 (42_session_fsm.md R194). -/

namespace Sys2Proof.Machine

/-! ### What every instruction keeps, and that it completes -/

theorem exec_commanded {i : Instr} {s t : State} (h : exec i s = .next t) :
    Commanded (i.wellFormed = true) (requestedKey s.cfg i) (beginCommand (nowOf i) s) t := by
  have hperforms := exec_performs i s
  rw [h] at hperforms
  exact hperforms.commanded

theorem exec_completes {i : Instr} {s : State} (hs : Inv s) (hi : i.wellFormed = true) : ∃ t, exec i s = .next t ∧
    Commanded (i.wellFormed = true) (requestedKey s.cfg i) (beginCommand (nowOf i) s) t :=
  (exec_performs i s).completes hi (hs.beginCommand (nowOf i))

/-- Settles O23: the envelope sets NOW, and `Commanded` keeps it and the rest and returns a status. -/
theorem everyCommandSetsNowAndReturnsAStatus : Obligations.EveryCommandSetsNowAndReturnsAStatus := by
  intro i s t h
  obtain ⟨hclock, hstatus, hcfg, hlength, hinputs⟩ := (exec_commanded h).frame
  exact ⟨hclock.trans (beginCommand_clock ..), hstatus, hcfg.trans (beginCommand_cfg ..),
    hlength.trans (beginCommand_length ..), hinputs.trans (beginCommand_inputs ..)⟩

/-- Settles O50: moves continue the session of a slot, and a new session takes a free one. -/
theorem transferFieldsNeverChange : Obligations.TransferFieldsNeverChange :=
  fun _ _ _ _ _ _ h hσ hτ => (exec_commanded h).continues hσ hτ

/-- Settles O56: a rule stops only outside the invariant, which the envelope keeps. -/
theorem everyInstructionCompletes : Obligations.EveryInstructionCompletes := by
  intro i s hs hi
  obtain ⟨t, ht, hcommanded⟩ := exec_completes hs hi
  obtain ⟨-, hstatus, -⟩ := hcommanded.frame
  exact ⟨t, ht, hstatus⟩

/-- Settles O42: RX_FRAME and the row run the same rule after the same envelope, and every well-formed row completes. -/
theorem rxFrameIsTheMeaningOfItsFrame : Obligations.RxFrameIsTheMeaningOfItsFrame := by
  intro now f i s hdecode
  have heq := exec_rxFrame_of_decode hdecode
  refine ⟨heq, fun hs => ?_⟩
  obtain ⟨t, ht, -⟩ := exec_completes hs (wellFormed_of_decode hdecode)
  exact ⟨t, heq.trans ht, ht⟩

/-! ### Every session that leaves has one END item (42_session_fsm.md R194) -/

section
variable {i : Instr} {s t u : State} {j : Nat} {key : Addr × Addr × Role}

theorem createdSession_eq_none {st : Status} (h : requestedKey s.cfg i = none ∨ (st ≠ .ok ∧ st ≠ .ioError))
    (hst : t.status = some st) : createdSession i s t = none := by
  rw [createdSession]
  split_ifs with hstatus
  · rcases h with hkey | ⟨hok, hio⟩
    · rw [hkey]
      cases alloc (beginCommand (nowOf i) s) <;> rfl
    · rw [hst] at hstatus
      exact absurd hstatus (by simp [hok, hio])
  · rfl

theorem createdSession_eq_some (hkey : requestedKey s.cfg i = some key)
    (hj : alloc (beginCommand (nowOf i) s) = some j) (hst : t.status = some .ok ∨ t.status = some .ioError) :
    createdSession i s t = some (j, key) := by
  simp only [createdSession, if_pos hst, hj, hkey]

/-- A slot that the envelope left free reports what it held. -/
theorem Ledger.reportsSlot_of_free {new : List TraceItem} (h : Ledger s t new) (hfree : slotAt t j = none) :
    reportsSlot j s (endsAt j new) := by
  rcases h.slot j with ⟨_, τ, -, hτ, -⟩ | ⟨-, hreports⟩
  · exact nomatch hfree.symm.trans hτ
  · exact hreports

end

/-- From s to t only slot j was touched, which was free: a session was created in it, and it is still there or these END
items, one, report it. -/
structure Created (j : Nat) (s t : State) (ends : List EndItem) : Prop where
  other : ∀ k, k ≠ j → slotAt t k = slotAt s k
  ends_eq : endsOf t.trace = endsOf s.trace ++ ends
  slot_eq : ∀ e ∈ ends, e.slot = j
  count : (validSessions t).length + ends.length = (validSessions s).length + 1

section
variable {s t u : State} {j k : Nat} {ends : List EndItem}

theorem Created.endsAt_same (h : Created j s t ends) : endsAt j t.trace = endsAt j s.trace ++ ends := by
  rw [endsAt, h.ends_eq, List.filter_append, endsAt, List.filter_eq_self.2 fun e he => beq_iff_eq.2 (h.slot_eq e he)]

theorem Created.endsAt_other (h : Created j s t ends) (hk : k ≠ j) : endsAt k t.trace = endsAt k s.trace := by
  have hnone : ends.filter (fun e => e.slot == k) = [] :=
    List.filter_eq_nil_iff.2 fun e he => by simpa [h.slot_eq e he] using hk.symm
  rw [endsAt, h.ends_eq, List.filter_append, hnone, List.append_nil, endsAt]

/-- The sessions and the END items count one more together. -/
theorem Created.length_eq (h : Created j s t ends) : (validSessions t).length + (endsOf t.trace).length =
    (validSessions s).length + (endsOf s.trace).length + 1 := by
  have hcount := h.count
  rw [h.ends_eq, List.length_append]
  omega

/-- A new session in a free slot, whose first frame, if it has one, was sent. -/
theorem created_of_opened (hopened : Opened s u) (hlt : j < s.slots.length) (hfree : slotAt s j = none) (τ : Session)
    (ht : t.slots = (setSlot j (some τ) u).slots) (htrace : t.trace = u.trace) : Created j s t [] where
  other k hk := by rw [slotAt_congr ht, slotAt_setSlot_other hk, slotAt_congr hopened.slots_eq]
  ends_eq := by
    obtain ⟨new, hnew, hends⟩ := hopened.trace_eq
    rw [htrace, hnew, endsOf_append, hends]
  slot_eq := nofun
  count := by
    have hcount := validSessions_setSlot (s := u) (some τ) (hopened.slots_eq ▸ hlt)
    rw [slotAt_congr hopened.slots_eq, hfree, validSessions_congr hopened.slots_eq] at hcount
    rw [validSessions_congr ht]
    exact hcount

/-- A new session whose first frame failed. -/
theorem created_of_failed {σ : Session} {f : Frame} (hj : alloc s = some j)
    (ht : t.slots = (abort j σ .ioError (tx f (setSlot j (some σ) s)).2).slots)
    (htrace : t.trace = (abort j σ .ioError (tx f (setSlot j (some σ) s)).2).trace) :
    Created j s t [endItem j { σ with state := .aborted } .ioError none .none none] where
  other k _ := slotAt_congr (ht.trans (slots_of_failed_start hj ..)) k
  ends_eq := by
    rw [htrace, trace_of_failed_start, endsOf_append]
    rfl
  slot_eq e he := by rw [List.mem_singleton.1 he]; rfl
  count := by rw [validSessions_congr (ht.trans (slots_of_failed_start hj ..))]; rfl

end

/-- Settles O58: the envelope's ledger, continued by the moves of the rule; where a session is created the rule touches
its slot alone, which the envelope left free. -/
theorem everySessionThatLeavesHasOneEnd : Obligations.EverySessionThatLeavesHasOneEnd := by
  intro i s t h
  have henvelope := Ledger.of_beginCommand (nowOf i) s
  have hcount : _ + _ = (validSessions s).length := henvelope.count
  cases exec_commanded h with
  | @settled u hmoves st hst =>
    obtain ⟨new, hrule⟩ := Ledger.of_moves hmoves
    have hledger := henvelope.trans hrule
    rw [← hrule.trace] at hledger
    rw [createdSession_eq_none hst rfl]
    exact ⟨fun j _ => hledger.slot j, nofun, hledger.count⟩
  | @started j src dst role u τ hkey hj hfree hopened hfresh slotOut =>
    obtain ⟨hlt, hempty⟩ := alloc_spec hj
    have hcreated := created_of_opened (t := { setSlot j (some τ) u with status := some .ok, slotOut := slotOut })
      hopened hlt hempty τ rfl rfl
    rw [createdSession_eq_some hkey hj (.inl rfl)]
    refine ⟨fun k hk => ?_, ?_, by rw [hcreated.length_eq, hcount]; rfl⟩
    · have hkj : k ≠ j := fun heq => hk _ (by rw [heq])
      rw [hcreated.other k hkj, hcreated.endsAt_other hkj]
      exact henvelope.slot k
    · rintro _ _ _ _ ⟨⟩
      rw [hcreated.endsAt_same, List.append_nil]
      obtain ⟨hsrc, hdst, hrole⟩ : τ.src = src ∧ τ.dst = dst ∧ τ.role = role := by
        simpa [sessionKey] using hfresh.key
      exact ⟨fun _ => ⟨henvelope.reportsSlot_of_free hempty, τ, slotAt_setSlot_same (hopened.slots_eq ▸ hlt) _, hsrc,
        hdst, hrole, hfresh.created.trans (hopened.moves (W := True)).clock_eq.symm⟩, nofun⟩
  | @failed j σ hkey hj f =>
    obtain ⟨-, hempty⟩ := alloc_spec hj
    have hcreated := created_of_failed (t := { abort j σ .ioError (tx f (setSlot j (some σ) _)).2 with
      status := some .ioError }) hj rfl rfl
    rw [createdSession_eq_some hkey hj (.inr rfl)]
    refine ⟨fun k hk => ?_, ?_, by rw [hcreated.length_eq, hcount]; rfl⟩
    · have hkj : k ≠ j := fun heq => hk _ (by rw [heq])
      rw [hcreated.other k hkj, hcreated.endsAt_other hkj]
      exact henvelope.slot k
    · rintro _ _ _ _ ⟨⟩
      exact ⟨nofun, fun _ => ⟨(slotAt_congr (slots_of_failed_start hj ..) j).trans hempty, _, _, hcreated.endsAt_same,
        henvelope.reportsSlot_of_free hempty, rfl, rfl, rfl, rfl, rfl⟩⟩

end Sys2Proof.Machine
end

section
/-! Every step of the machine: what it runs and O24 (43_session_table.md R235), O51 (30_encoding.md R90, R91, R99), the
invariant and O53, O54 (10_state.md R37), the buffers and O55 (20_memory.md R61), and O57 (30_encoding.md R99). -/

namespace Sys2Proof.Machine

/-! ### What a step runs -/

section
variable {s t : State} {rest : List Event} {w : InputWord}

theorem step_of_inputs_nil (h : s.inputs = []) : step s = .next s := by
  simp only [step, h]

theorem step_of_inputs_word (h : s.inputs = .word w :: rest) :
    step s = if legalConfig s.cfg then runWord w { s with inputs := rest } else .refused .illegalConfig := by
  simp only [step, h]

theorem runWord_of_decode {i : Instr} (h : decode s.cfg w = .ok i) : runWord w s = exec i s := by
  simp only [runWord, h]

theorem runWord_of_reject {e : Reject} (h : decode s.cfg w = .error e) : runWord w s = rejectWord w s := by
  simp only [runWord, h]

/-- An input word runs a well-formed instruction, or it is a reserved record, which is refused. -/
theorem runWord_cases (w : InputWord) (s : State) :
    (∃ i, i.wellFormed = true ∧ runWord w s = exec i s) ∨ runWord w s = refuseCommand s := by
  cases hdecode : decode s.cfg w with
  | ok i => exact .inl ⟨i, wellFormed_of_decode hdecode, runWord_of_decode hdecode⟩
  | error e =>
    rw [runWord_of_reject hdecode]
    cases w with
    | command c => exact .inr rfl
    | frame now f => exact .inl ⟨.rxFrame now f, rfl, rfl⟩

end

/-- Settles O24: a reserved cmd_op is no row, and its record is refused. -/
theorem reservedCommandChangesNothing : Obligations.ReservedCommandChangesNothing := by
  intro c rest s hlegal hinputs h1 h2 h3 h4
  obtain ⟨-, -, -, -, hreserved⟩ := cmdOpSelectsTheCommand s.cfg c
  rw [step_of_inputs_word hinputs, if_pos hlegal]
  exact runWord_of_reject (s := { s with inputs := rest }) (hreserved h1 h2 h3 h4)

/-- Settles O51: one equation of the step per next event. -/
theorem stepRunsTheDecodedInstruction : Obligations.StepRunsTheDecodedInstruction := by
  refine fun s => ⟨step_of_inputs_nil, fun w rest hinputs => ?_, fun cfg rest t hinputs ht => ?_⟩
  · rw [step_of_inputs_word hinputs]
    refine ⟨fun hillegal => ?_, fun hlegal i hdecode => ?_, fun hlegal e now f hreject hframe => ?_⟩
    · rw [if_neg (Bool.eq_false_iff.1 hillegal)]
    · rw [if_pos hlegal]
      exact runWord_of_decode (s := { s with inputs := rest }) hdecode
    · rw [if_pos hlegal]
      subst hframe
      exact runWord_of_reject (s := { s with inputs := rest }) hreject
  · rw [step_of_inputs_reset hinputs, applyReset] at ht
    split_ifs at ht
    cases ht
    exact ⟨rfl, rfl, rfl⟩

/-- What a step that completes did: nothing, a legal reset, the refusal of a reserved record, or an instruction. -/
theorem step_cases {s t : State} (h : step s = .next t) : t = s ∨
    (∃ cfg, legalConfig cfg = true ∧ t = { State.resetWith cfg with
      inputs := t.inputs, answers := s.answers, draws := s.draws }) ∨
    ∃ rest, refuseCommand { s with inputs := rest } = .next t ∨
      ∃ i, i.wellFormed = true ∧ exec i { s with inputs := rest } = .next t := by
  cases hinputs : s.inputs with
  | nil => exact .inl (Host.Outcome.next.inj ((step_of_inputs_nil hinputs).symm.trans h)).symm
  | cons event rest =>
    cases event with
    | reset cfg =>
      rw [step_of_inputs_reset hinputs, applyReset] at h
      split_ifs at h with hlegal
      cases h
      exact .inr (.inl ⟨cfg, hlegal, rfl⟩)
    | word w =>
      rw [step_of_inputs_word hinputs] at h
      split_ifs at h
      rcases runWord_cases w { s with inputs := rest } with ⟨i, hi, hrun⟩ | hrun
      · exact .inr (.inr ⟨rest, .inr ⟨i, hi, hrun ▸ h⟩⟩)
      · exact .inr (.inr ⟨rest, .inl (hrun ▸ h)⟩)

/-! ### The invariant -/

theorem inv_resetWith {cfg : Config} (h : legalConfig cfg = true) : Inv (State.resetWith cfg) := by
  have hnone : validSessions (State.resetWith cfg) = [] := by
    refine List.eq_nil_iff_forall_not_mem.2 fun σ hσ => ?_
    obtain ⟨i, hi⟩ := (mem_validSessions_iff ..).1 hσ
    exact nomatch (reset_slots_empty cfg i).symm.trans hi
  exact ⟨h, length_slots_resetWith cfg, by rw [hnone]; nofun, by rw [hnone]; exact List.nodup_nil⟩

/-- Settles O53: no session is valid after a reset, and the default configuration is legal. -/
theorem resetSatisfiesTheInvariant : Obligations.ResetSatisfiesTheInvariant :=
  ⟨inv_resetWith (by decide), fun _ => inv_resetWith⟩

/-- Settles O54: a reset starts a table that meets the invariant, and an instruction keeps it, as the envelope and every
move do. -/
theorem stepKeepsTheInvariant : Obligations.StepKeepsTheInvariant := by
  intro s t hs ht
  rcases step_cases ht with rfl | ⟨cfg, hlegal, hreset⟩ | ⟨rest, hrefused | ⟨i, hi, hexec⟩⟩
  · exact hs
  · rw [hreset]
    exact (inv_resetWith hlegal).congr rfl rfl rfl
  · cases hrefused
    exact hs.congr rfl rfl rfl
  · have hs' : Inv { s with inputs := rest } := hs.congr rfl rfl rfl
    exact (exec_commanded hexec).inv hi (hs'.beginCommand (nowOf i))

/-! ### The buffers -/

theorem buffersCanonical_beginCommand {s : State} (hs : buffersCanonical s) (now : Millis) :
    buffersCanonical (beginCommand now s) :=
  beginCommand_keeps (fun _ _ _ _ h _ => buffersCanonical_free h (abort_slots ..)) now s hs

/-- Settles O55: a reset table has no buffer, and an instruction writes to buffers by MemWrite alone. -/
theorem stepKeepsBuffersCanonical : Obligations.StepKeepsBuffersCanonical := by
  intro s t hs ht
  rcases step_cases ht with rfl | ⟨cfg, -, hreset⟩ | ⟨rest, hrefused | ⟨i, -, hexec⟩⟩
  · exact hs
  · rw [hreset]
    exact reset_buffersCanonical cfg
  · cases hrefused
    exact hs
  · have hs' : buffersCanonical { s with inputs := rest } := hs
    exact (exec_commanded hexec).buffersCanonical (buffersCanonical_beginCommand hs' (nowOf i))

/-! ### No step stops -/

/-- Settles O57: every event but an illegal reset is nothing, a refusal, or an instruction that completes. -/
theorem noStepStops : Obligations.NoStepStops := by
  intro s hs hlegal
  cases hinputs : s.inputs with
  | nil => exact ⟨s, step_of_inputs_nil hinputs⟩
  | cons event rest =>
    cases event with
    | reset cfg =>
      rw [nextResetLegal, hinputs] at hlegal
      exact ⟨_, (step_of_inputs_reset hinputs).trans (applyReset_of_legal hlegal _)⟩
    | word w =>
      rw [step_of_inputs_word hinputs, if_pos hs.legal]
      rcases runWord_cases w { s with inputs := rest } with ⟨i, hi, hrun⟩ | hrun
      · obtain ⟨t, ht, -⟩ := exec_completes (s := { s with inputs := rest }) (hs.congr rfl rfl rfl) hi
        exact ⟨t, hrun.trans ht⟩
      · exact ⟨_, hrun⟩

end Sys2Proof.Machine
end

section
/-! What the sweep does and O22, O59 (43_session_table.md R236; 42_session_fsm.md R187, R188). -/

namespace Sys2Proof.Machine

/-! ### Visits of distinct slots -/

/-- Visits of distinct slots that each append to a list what their own slot gives, where no other slot's visit changes
that, append what the slots give at first, in order. -/
theorem foldl_appends {α : Type} {visit : State → Nat → State} {view : State → List α} {item : State → Nat → Option α}
    (hvisit : ∀ s i, view (visit s i) = view s ++ (item s i).toList)
    (hother : ∀ s i j, j ≠ i → item (visit s i) j = item s j) {os : List Nat} (hnodup : os.Nodup) (s : State) :
    view (os.foldl visit s) = view s ++ os.filterMap (item s) := by
  induction os generalizing s with
  | nil => simp
  | cons o os ih =>
    obtain ⟨ho, hnodup'⟩ := List.nodup_cons.1 hnodup
    have hrest : os.filterMap (item (visit s o)) = os.filterMap (item s) :=
      List.filterMap_congr fun j hj => hother s o j fun heq => ho (heq ▸ hj)
    rw [List.foldl_cons, ih hnodup', hvisit, hrest, List.append_assoc]
    cases hitem : item s o <;> simp [hitem]

/-! ### One visit of the sweep -/

/-- Why the sweep ends a session, if it does: TIMEOUT before OVERALL_TIMEOUT (43_session_table.md R236). -/
def sweepEvent (cfg : Config) (clock : Millis) (σ : Session) : Option AbortEvent :=
  if expired clock σ then some .timeout else if overallPassed cfg clock σ then some .overallTimeout else none

/-- Has the armed deadline or the overall limit of a session passed (43_session_table.md R236)? -/
def Passed (cfg : Config) (clock : Millis) (σ : Session) : Prop :=
  (∃ d, σ.deadline = some d ∧ d ≤ clock) ∨ (cfg.tOverall ≠ 0 ∧ cfg.tOverall ≤ clock - σ.created)

section
variable {cfg : Config} {clock : Millis} {s : State} {i j : Nat} {σ : Session} {ev : AbortEvent}

theorem expired_eq_true_iff (clock : Millis) (σ : Session) :
    expired clock σ = true ↔ ∃ d, σ.deadline = some d ∧ d ≤ clock := by
  cases hd : σ.deadline <;> simp [expired, hd]

theorem isSome_sweepEvent : (sweepEvent cfg clock σ).isSome = (expired clock σ || overallPassed cfg clock σ) := by
  rw [sweepEvent]
  cases expired clock σ <;> cases overallPassed cfg clock σ <;> rfl

theorem isSome_sweepEvent_iff : (sweepEvent cfg clock σ).isSome = true ↔ Passed cfg clock σ := by
  rw [isSome_sweepEvent, Bool.or_eq_true, expired_eq_true_iff, overallPassed, decide_eq_true_iff, Passed]

/-- Both causes of the sweep send RSN_TIMEOUT. -/
theorem reasonSent_of_sweepEvent (h : sweepEvent cfg clock σ = some ev) : reasonSent cfg ev = some cfg.rsnTimeout := by
  rw [sweepEvent] at h
  split_ifs at h <;> cases h <;> rfl

theorem sweepSlot_of_free (hnone : slotAt s i = none) : sweepSlot s i = s := by
  simp only [sweepSlot, hnone]

theorem sweepSlot_of_passed (hσ : slotAt s i = some σ) (hev : sweepEvent s.cfg s.clock σ = some ev) :
    sweepSlot s i = abort i σ ev s := by
  simp only [sweepSlot, hσ]
  rw [sweepEvent] at hev
  split_ifs at hev ⊢ <;> cases hev <;> rfl

theorem sweepSlot_of_not_passed (hσ : slotAt s i = some σ) (hev : sweepEvent s.cfg s.clock σ = none) :
    sweepSlot s i = s := by
  simp only [sweepSlot, hσ]
  rw [sweepEvent] at hev
  split_ifs at hev ⊢
  rfl

theorem sweepSlot_frame (s : State) (i : Nat) : (sweepSlot s i).cfg = s.cfg ∧ (sweepSlot s i).clock = s.clock ∧
    ∀ j, j ≠ i → slotAt (sweepSlot s i) j = slotAt s j := by
  obtain ⟨he, -⟩ | ⟨σ, ev, -, he, -⟩ := sweepSlot_cases s i <;> rw [he]
  · exact ⟨rfl, rfl, fun _ _ => rfl⟩
  · exact ⟨abort_cfg .., abort_clock .., fun j hj => (slotAt_abort ..).trans (if_neg hj)⟩

/-- What the session in a slot gives, if there is one, from the configuration and the time. -/
def fromSlot {α : Type} (give : Config → Millis → Nat → Session → Option α) (s : State) (i : Nat) : Option α :=
  (slotAt s i).bind (give s.cfg s.clock i)

theorem fromSlot_sweepSlot_other {α : Type} (give : Config → Millis → Nat → Session → Option α) (s : State) (i j : Nat)
    (h : j ≠ i) : fromSlot give (sweepSlot s i) j = fromSlot give s j := by
  obtain ⟨hcfg, hclock, hother⟩ := sweepSlot_frame s i
  rw [fromSlot, fromSlot, hcfg, hclock, hother j h]

/-- What an END item tells of a session: its slot and cause, its key, its outcome (30_encoding.md R95). -/
def endFields (e : EndItem) : (Nat × Cause) × (Addr × Addr × Role) × SessState :=
  ((e.slot, e.cause), (e.src, e.dst, e.role), e.outcome)

/-- The END item of a session that the sweep ends. -/
def sweptEnd (cfg : Config) (clock : Millis) (i : Nat) (σ : Session) :
    Option ((Nat × Cause) × (Addr × Addr × Role) × SessState) :=
  (sweepEvent cfg clock σ).map fun ev => ((i, causeOf ev), sessionKey σ, .aborted)

/-- The Abort frame of a session that the sweep ends, if it sends one. -/
def sweptFrame (cfg : Config) (clock : Millis) (_ : Nat) (σ : Session) : Option Frame :=
  if (sweepEvent cfg clock σ).isSome ∧ σ.mode = .connection then some (cmf cfg σ (encAbort cfg.rsnTimeout σ.pgn))
  else none

/-- What a visit appends: an END item and, in connection mode, an Abort frame, where the session's time has passed. -/
theorem sweepSlot_trace (s : State) (i : Nat) :
    (endsOf (sweepSlot s i).trace).map endFields =
      (endsOf s.trace).map endFields ++ (fromSlot sweptEnd s i).toList ∧
    framesOf (sweepSlot s i).trace = framesOf s.trace ++ (fromSlot sweptFrame s i).toList := by
  cases hσ : slotAt s i with
  | none => simp [sweepSlot_of_free hσ, fromSlot, hσ]
  | some σ =>
    cases hev : sweepEvent s.cfg s.clock σ with
    | none => simp [sweepSlot_of_not_passed hσ hev, fromSlot, hσ, sweptEnd, sweptFrame, hev]
    | some ev =>
      rw [sweepSlot_of_passed hσ hev, abort_trace_of_reasonSent (reasonSent_of_sweepEvent hev), endsOf_append,
        framesOf_append, List.map_append]
      have hend : fromSlot sweptEnd s i = some ((i, causeOf ev), sessionKey σ, .aborted) := by
        rw [fromSlot, hσ, Option.bind_some, sweptEnd, hev, Option.map_some]
      have hframe : fromSlot sweptFrame s i = if σ.mode = .connection then
          some (cmf s.cfg σ (encAbort s.cfg.rsnTimeout σ.pgn)) else none := by
        simp [fromSlot, hσ, sweptFrame, hev]
      rw [hend, hframe]
      split_ifs <;> exact ⟨rfl, rfl⟩

/-! ### The whole sweep -/

/-- The state whose sweep is the envelope: NOW set, the output empty (43_session_table.md R235). -/
def commandStart (now : Millis) (s : State) : State :=
  { s with clock := max s.clock now, trace := [], status := none, slotOut := none }

theorem beginCommand_eq_sweep (now : Millis) (s : State) : beginCommand now s = sweep (commandStart now s) := rfl

theorem sweep_ends (s : State) : (endsOf (sweep s).trace).map endFields =
    (endsOf s.trace).map endFields ++ (List.range s.slots.length).filterMap (fromSlot sweptEnd s) :=
  foldl_appends (view := fun t => (endsOf t.trace).map endFields) (fun s i => (sweepSlot_trace s i).1)
    (fromSlot_sweepSlot_other _) List.nodup_range s

theorem sweep_frames (s : State) : framesOf (sweep s).trace =
    framesOf s.trace ++ (List.range s.slots.length).filterMap (fromSlot sweptFrame s) :=
  foldl_appends (view := fun t => framesOf t.trace) (fun s i => (sweepSlot_trace s i).2)
    (fromSlot_sweepSlot_other _) List.nodup_range s

/-- The session of a slot that the sweep leaves. -/
def leftBySweep (cfg : Config) (clock : Millis) (_ : Nat) (σ : Session) : Option Session :=
  if (sweepEvent cfg clock σ).isSome then none else some σ

theorem slotAt_sweepSlot_same (s : State) (i : Nat) : slotAt (sweepSlot s i) i = fromSlot leftBySweep s i := by
  cases hσ : slotAt s i with
  | none => rw [sweepSlot_of_free hσ, fromSlot, hσ, Option.bind_none]
  | some σ =>
    cases hev : sweepEvent s.cfg s.clock σ with
    | none =>
      rw [sweepSlot_of_not_passed hσ hev, fromSlot, hσ, Option.bind_some, leftBySweep, hev]
      rfl
    | some ev =>
      rw [sweepSlot_of_passed hσ hev, slotAt_abort, if_pos rfl, fromSlot, hσ, Option.bind_some, leftBySweep, hev]
      rfl

theorem slotAt_foldl_sweepSlot {os : List Nat} (hnodup : os.Nodup) (s : State) (j : Nat) :
    slotAt (os.foldl sweepSlot s) j = if j ∈ os then fromSlot leftBySweep s j else slotAt s j := by
  induction os generalizing s with
  | nil => rfl
  | cons o os ih =>
    obtain ⟨ho, hnodup'⟩ := List.nodup_cons.1 hnodup
    rw [List.foldl_cons, ih hnodup']
    by_cases hjo : j = o
    · subst hjo
      rw [if_neg ho, if_pos List.mem_cons_self, slotAt_sweepSlot_same]
    · obtain ⟨-, -, hother⟩ := sweepSlot_frame s o
      rw [fromSlot_sweepSlot_other _ _ _ _ hjo, hother j hjo]
      simp [hjo]

theorem slotAt_sweep (s : State) (j : Nat) : slotAt (sweep s) j = fromSlot leftBySweep s j := by
  rw [sweep, slotAt_foldl_sweepSlot (os := slotIndices s) List.nodup_range]
  cases hσ : slotAt s j with
  | none => simp [fromSlot, hσ]
  | some σ => exact if_pos (List.mem_range.2 (lt_of_slotAt hσ))

theorem slotAt_sweep_of_passed (hσ : slotAt s j = some σ) (h : Passed s.cfg s.clock σ) : slotAt (sweep s) j = none := by
  rw [slotAt_sweep, fromSlot, hσ, Option.bind_some, leftBySweep, if_pos (isSome_sweepEvent_iff.2 h)]

theorem slotAt_sweep_of_not_passed (hσ : slotAt s j = some σ) (h : ¬Passed s.cfg s.clock σ) :
    slotAt (sweep s) j = some σ := by
  rw [slotAt_sweep, fromSlot, hσ, Option.bind_some, leftBySweep, if_neg (mt isSome_sweepEvent_iff.1 h)]

end

/-- Settles O22: what becomes of a slot, the END items and the frames are each that of one visit per slot, with the
sweep's event read as the two passed limits. -/
theorem sweepEndsExactlyThePassedSessions : Obligations.SweepEndsExactlyThePassedSessions := by
  intro s
  refine ⟨fun i σ hσ => ⟨slotAt_sweep_of_passed hσ, slotAt_sweep_of_not_passed hσ⟩, fun i hnone => ?_, ?_, ?_, ?_⟩
  · rw [slotAt_sweep, fromSlot, hnone, Option.bind_none]
  · have hends := congrArg (List.map Prod.fst) (sweep_ends s)
    rw [List.map_append, List.map_map, List.map_map, List.map_filterMap] at hends
    refine hends.trans (congrArg (_ ++ ·) (List.filterMap_congr fun i _ => ?_))
    cases hσ : slotAt s i with
    | none => simp [fromSlot, hσ]
    | some σ =>
      simp only [fromSlot, hσ, Option.bind_some, sweptEnd, sweepEvent]
      split_ifs <;> rfl
  · rw [sweep_frames]
    refine congrArg (_ ++ ·) (List.filterMap_congr fun i _ => ?_)
    cases hσ : slotAt s i with
    | none => simp [fromSlot, hσ]
    | some σ =>
      simp only [fromSlot, hσ, Option.bind_some, sweptFrame, isSome_sweepEvent, Bool.and_eq_true, decide_eq_true_iff]
  · exact foldl_sweepSlot_keeps (P := fun t => t.clock = s.clock ∧ t.cfg = s.cfg)
      (fun i σ ev t ht _ => by simpa using ht) (slotIndices s) s ⟨rfl, rfl⟩

/-- A session whose deadline has passed is reported by the sweep, aborted with cause TIMEOUT. -/
theorem exists_timeout_end {s : State} {j : Nat} {σ : Session} (hσ : slotAt s j = some σ)
    (h : expired s.clock σ = true) :
    ∃ e ∈ endsOf (sweep s).trace, endFields e = ((j, .timeout), sessionKey σ, .aborted) := by
  have hmem : ((j, Cause.timeout), sessionKey σ, SessState.aborted) ∈ (endsOf (sweep s).trace).map endFields := by
    rw [sweep_ends]
    refine List.mem_append_right _ (List.mem_filterMap.2 ⟨j, List.mem_range.2 (lt_of_slotAt hσ), ?_⟩)
    rw [fromSlot, hσ, Option.bind_some, sweptEnd, sweepEvent, if_pos h]
    rfl
  exact List.mem_map.1 hmem

/-- Settles O59: the sweep of the envelope ends the session and reports it, and the command completes after it. -/
theorem passedDeadlineEndsTheSession : Obligations.PassedDeadlineEndsTheSession := by
  intro i s j σ d hs hi hσ hd hle
  have hstart : slotAt (commandStart (nowOf i) s) j = some σ := hσ
  have hpassed : ∃ d, σ.deadline = some d ∧ d ≤ (commandStart (nowOf i) s).clock := ⟨d, hd, hle⟩
  rw [beginCommand_eq_sweep]
  refine ⟨slotAt_sweep_of_passed hstart (.inl hpassed), ?_⟩
  obtain ⟨e, he, hfields⟩ := exists_timeout_end hstart ((expired_eq_true_iff ..).2 hpassed)
  obtain ⟨t, ht, hcommanded⟩ := exec_completes hs hi
  obtain ⟨new, htrace⟩ := hcommanded.trace_eq
  simp only [endFields, sessionKey, Prod.mk.injEq] at hfields
  obtain ⟨⟨hslot, hcause⟩, ⟨hsrc, hdst, hrole⟩, houtcome⟩ := hfields
  refine ⟨t, e, ht, ?_, hslot, hsrc, hdst, hrole, houtcome, hcause⟩
  rw [htrace, endsOf_append]
  exact List.mem_append_left _ he

end Sys2Proof.Machine
end

section
/-! The frames of a POLL and O45, and the sessions it leaves and O49 (43_session_table.md R247; 42_session_fsm.md
R172–R174, R176, R191). -/

namespace Sys2Proof.Machine

/-- The frame that one POLL sends for the session of a slot. -/
def dueFrom (cfg : Config) (clock : Millis) (_ : Nat) (σ : Session) : Option Frame := dueFrame cfg clock σ

section
variable {s t : State} {i j : Nat}

/-- A visit sends the frame that is due, if there is one, and no other. -/
theorem serviceSlot_frames (h : ∀ σ, slotAt s i = some σ → SessionInv s.cfg s.clock σ) : ∃ t,
    serviceSlot i s = .next t ∧ framesOf t.trace = framesOf s.trace ++ (fromSlot dueFrom s i).toList := by
  cases hσ : slotAt s i with
  | none => exact ⟨s, by simp only [serviceSlot, hσ], by simp [fromSlot, hσ]⟩
  | some σ =>
    obtain ⟨t, ht, hvisit⟩ := serviceSlot_visit hσ (h σ hσ)
    refine ⟨t, ht, ?_⟩
    rw [hvisit.framesOf_trace, fromSlot, hσ]
    rfl

/-- The visits of distinct slots send the frames that were due at first, in order: a visit changes no other slot. -/
theorem pollSlots_frames {is : List Nat} (hnodup : is.Nodup)
    (hinv : ∀ i ∈ is, ∀ σ, slotAt s i = some σ → SessionInv s.cfg s.clock σ) : ∃ t, pollSlots is s = .next t ∧
      t.status = some .ok ∧ framesOf t.trace = framesOf s.trace ++ is.filterMap (fromSlot dueFrom s) := by
  induction is generalizing s with
  | nil => exact ⟨_, rfl, rfl, (List.append_nil _).symm⟩
  | cons i is ih =>
    obtain ⟨hi, hnodup'⟩ := List.nodup_cons.1 hnodup
    obtain ⟨u, hu, hframes⟩ := serviceSlot_frames (hinv i List.mem_cons_self)
    have hvisit := serviceSlot_serviced hu
    have hsame : ∀ j ∈ is, slotAt u j = slotAt s j := fun j hj => hvisit.slotAt_other fun heq => hi (heq ▸ hj)
    have hdue : is.filterMap (fromSlot dueFrom u) = is.filterMap (fromSlot dueFrom s) :=
      List.filterMap_congr fun j hj => by rw [fromSlot, fromSlot, hvisit.cfg_eq, hvisit.clock_eq, hsame j hj]
    obtain ⟨t, ht, hstatus, hrest⟩ := ih (s := u) hnodup' fun j hj σ hσ => by
      rw [hvisit.cfg_eq, hvisit.clock_eq]
      exact hinv j (List.mem_cons_of_mem i hj) σ (hsame j hj ▸ hσ)
    refine ⟨t, by rw [pollSlots, hu]; exact ht, hstatus, ?_⟩
    rw [hrest, hframes, hdue, List.append_assoc]
    cases hitem : fromSlot dueFrom s i <;> simp [hitem]

end

/-- Settles O45: the visits are those of the slots in order, in the state after the envelope, which keeps the
invariant. -/
theorem pollSendsTheDueFramesInOrder : Obligations.PollSendsTheDueFramesInOrder := by
  rintro now s s0 hinv rfl
  obtain ⟨t, ht, hstatus, hframes⟩ := pollSlots_frames (is := slotIndices (beginCommand now s)) List.nodup_range
    fun i _ σ hσ => (hinv.beginCommand now).sessionInv hσ
  refine ⟨t, ht, hstatus, hframes.trans (congrArg (_ ++ ·) (List.filterMap_congr fun i _ => ?_))⟩
  cases hσ : slotAt (beginCommand now s) i <;> simp [fromSlot, hσ, dueFrom]

/-- A command that may create no session puts none into a free slot. -/
theorem Commanded.slotAt_of_free {W : Prop} {s t : State} {j : Nat} (h : Commanded W none s t)
    (hfree : slotAt s j = none) : slotAt t j = none := by
  cases h with
  | settled hmoves st hst =>
    by_contra hvalid
    obtain ⟨τ, hτ⟩ := Option.ne_none_iff_exists'.1 hvalid
    obtain ⟨σ, hσ, -⟩ := hmoves.continues hτ
    exact nomatch hfree.symm.trans hσ
  | started hkey => cases hkey
  | failed hkey => cases hkey

/-- Settles O49: the one visit of a receiver or of a sender in RTS_SENT is idle, and a POLL creates no session. -/
theorem pollLeavesWaitingSessionsAlone : Obligations.PollLeavesWaitingSessionsAlone := by
  rintro now s s0 hinv rfl
  obtain ⟨t, ht, hstatus, hserved⟩ := exec_poll_serves hinv now
  refine ⟨t, ht, hstatus, fun i σ hσ hwaits => ?_, fun i hfree => (exec_commanded ht).slotAt_of_free hfree⟩
  obtain ⟨s1, s2, h⟩ := hserved i σ hσ
  have hσ1 := h.slot_before.trans hσ
  have hidle : serviceSlot i s1 = .next s1 := by
    cases hrole : σ.role with
    | receiver => exact serviceSlot_of_receiver hσ1 hrole
    | sender =>
      have hstate : σ.state = .rtsSent := hwaits.resolve_left (by rw [hrole]; nofun)
      rw [serviceSlot_of_sender hσ1 hrole]
      rcases sender_cases ((hinv.beginCommand now).sessionInv hσ) hrole with ⟨hmode, -⟩ | ⟨-, hsending⟩
      · exact serviceSender_of_rtsSent hmode hstate
      · exact nomatch hstate.symm.trans hsending
  obtain rfl := Host.Outcome.next.inj (h.served.symm.trans hidle)
  exact h.slot_after.trans hσ1

end Sys2Proof.Machine
end

section
/-! The identifier and the codec of input words: O5 (30_encoding.md R82), O1, O2 and O6 (R87–R93), and O44 (R84). -/

namespace Sys2Proof.Machine

/-! ### The identifier (30_encoding.md R81–R84) -/

/-- An append as a sum: the low part does not reach the bits of the high one. -/
theorem toNat_append_eq_add {m n : Nat} (hi : BitVec m) (lo : BitVec n) :
    (hi ++ lo).toNat = hi.toNat * 2 ^ n + lo.toNat := by
  rw [BitVec.toNat_append, ← Nat.shiftLeft_add_eq_or_of_lt lo.isLt, Nat.shiftLeft_eq]

/-- Settles O5: each field is appended below the ones before it. -/
theorem identifierIsBuiltFromItsFields : Obligations.IdentifierIsBuiltFromItsFields := by
  intro prio p da sa
  rw [mkId, toNat_append_eq_add, toNat_append_eq_add, toNat_append_eq_add, pgnClassBits_toNat]
  omega

theorem sourceAddr_mkId (prio : BitVec 3) (p : BitVec 18) (da sa : Addr) : sourceAddr (mkId prio p da sa) = sa :=
  BitVec.extractLsb'_append_eq_right

theorem destAddr_mkId (prio : BitVec 3) (p : BitVec 18) (da sa : Addr) : destAddr (mkId prio p da sa) = da := by
  rw [destAddr, mkId, BitVec.extractLsb'_append_eq_of_le (by decide), BitVec.extractLsb'_append_eq_right]

theorem classBits_mkId (prio : BitVec 3) (p : BitVec 18) (da sa : Addr) :
    classBits (mkId prio p da sa) = p.extractLsb' 8 10 := by
  rw [classBits, mkId, BitVec.extractLsb'_append_eq_of_le (by decide), BitVec.extractLsb'_append_eq_of_le (by decide),
    BitVec.extractLsb'_append_eq_right]

theorem toNat_sourceAddr (id : CanId) : (sourceAddr id).toNat = id.toNat % 256 := by
  rw [sourceAddr, BitVec.extractLsb'_toNat, Nat.shiftRight_zero]

theorem toNat_destAddr (id : CanId) : (destAddr id).toNat = id.toNat / 256 % 256 := by
  rw [destAddr, BitVec.extractLsb'_toNat, Nat.shiftRight_eq_div_pow]

/-! ### Decoding a frame -/

/-- Settles O1: six closed words. -/
theorem writtenOutWordsDecode : Obligations.WrittenOutWordsDecode := by
  unfold Obligations.WrittenOutWordsDecode
  decide

theorem toNat_le24 (lo mid hi : Byte) : (le24 lo mid hi).toNat = lo.toNat + 256 * mid.toNat + 65536 * hi.toNat := by
  rw [le24, toNat_append_eq_add, toNat_append_eq_add]
  omega

/-- Settles O6: one equation of the CM decoder per control byte; the addresses and the PGN are the statement's
numbers. -/
theorem cmFrameDecodesByItsControlByte : Obligations.CmFrameDecodesByItsControlByte := by
  intro cfg now f sa da pgn hclass hsa hda hpgn
  obtain rfl : sa = sourceAddr f.id := BitVec.eq_of_toNat_eq (hsa.trans (toNat_sourceAddr f.id).symm)
  obtain rfl : da = destAddr f.id := BitVec.eq_of_toNat_eq (hda.trans (toNat_destAddr f.id).symm)
  obtain rfl : pgn = le24 f.data.b5 f.data.b6 f.data.b7 := BitVec.eq_of_toNat_eq (hpgn.trans (toNat_le24 ..).symm)
  rw [decode_frame_of_cm hclass]
  refine ⟨fun h => ?_, fun h => ?_, fun h => ?_, fun h => ?_, fun h => ?_, fun h1 h2 h3 h4 h5 => ?_⟩
  · rw [decCm_of_rts h]; rfl
  · rw [decCm_of_cts h]; rfl
  · rw [decCm_of_eomAck h]; rfl
  · rw [decCm_of_bam h]; rfl
  · rw [decCm_of_abort h]; rfl
  · have hmalformed : decCm f.data = .malformed f.data.b0 (le24 f.data.b5 f.data.b6 f.data.b7) := by
      simp only [decCm, if_neg h1, if_neg h2, if_neg h3, if_neg h4, if_neg h5]
    rw [hmalformed]
    exact ⟨rfl, rfl⟩

/-! ### Decoding an encoded instruction -/

section
variable {cfg : Config} {now : Millis} {prio : BitVec 3} {da sa : Addr} {d : Data8}

theorem classify_cmFrame : classify cfg (cmFrame cfg prio da sa d) = .cm :=
  (classify_eq_cm_iff ..).2 ⟨rfl, classBits_mkId ..⟩

theorem classify_dtFrame (h : legalConfig cfg = true) : classify cfg (dtFrame cfg prio da sa d) = .dt :=
  (classify_eq_dt_iff h _).2 ⟨rfl, classBits_mkId ..⟩

theorem decode_cmFrame : decode cfg (.frame now (cmFrame cfg prio da sa d)) = instrOfCm now sa da (decCm d) := by
  rw [decode_frame_of_cm classify_cmFrame]
  simp only [cmFrame, sourceAddr_mkId, destAddr_mkId]

theorem decode_dtFrame (h : legalConfig cfg = true) :
    decode cfg (.frame now (dtFrame cfg prio da sa d)) = .ok (.dt now sa da (dtSeq d) (dtPayload d)) := by
  rw [decode_frame_of_dt (classify_dtFrame h)]
  simp only [dtFrame, sourceAddr_mkId, destAddr_mkId]

/-- A DT frame carries its seven bytes. -/
theorem dtPayload_dtBytes_of_full {p : List Byte} (seq : Nat) (hp : p.length = 7) : dtPayload (dtBytes seq p) = p := by
  rw [dtPayload_dtBytes seq hp.le, hp]
  exact List.append_nil p

end

theorem roleOfBit_bitOfRole (role : Role) : roleOfBit (bitOfRole role) = role := by
  cases role <;> rfl

/-- Settles O2: an encoded frame is of its class and carries its addresses, and its data decode to the operands; an
encoded record is read back field by field. -/
theorem decodeOfEncodeIsTheInstruction : Obligations.DecodeOfEncodeIsTheInstruction := by
  intro cfg i hlegal hi
  cases i with
  | cmRts now sa da len np pgn =>
    obtain ⟨hlen, hnp⟩ : len < 65536 ∧ np < 256 := by simpa [Instr.wellFormed] using hi
    rw [encode, decode_cmFrame, decCm_encRts hlen hnp]; rfl
  | cmCts now sa da n nextSeq pgn =>
    obtain ⟨hn, hnext⟩ : n < 256 ∧ nextSeq < 256 := by simpa [Instr.wellFormed] using hi
    rw [encode, decode_cmFrame, decCm_encCts hn hnext]; rfl
  | cmEomAck now sa da len np pgn =>
    obtain ⟨hlen, hnp⟩ : len < 65536 ∧ np < 256 := by simpa [Instr.wellFormed] using hi
    rw [encode, decode_cmFrame, decCm_encEomAck hlen hnp]; rfl
  | cmBam now sa da len np pgn =>
    obtain ⟨hlen, hnp⟩ : len < 65536 ∧ np < 256 := by simpa [Instr.wellFormed] using hi
    rw [encode, decode_cmFrame, decCm_encBam hlen hnp]; rfl
  | cmAbort now sa da reason pgn => rw [encode, decode_cmFrame, decCm_encAbort]; rfl
  | dt now sa da seq p =>
    obtain ⟨hseq, hp⟩ : seq < 256 ∧ p.length = 7 := by simpa [Instr.wellFormed] using hi
    rw [encode, decode_dtFrame hlegal, dtSeq_dtBytes hseq, dtPayload_dtBytes_of_full seq hp]
  | send now src dst prio pgn payload => rfl
  | cancel now src dst role =>
    exact congrArg (fun r => Except.ok (Instr.cancel now src dst r)) (roleOfBit_bitOfRole role)
  | rxFrame now f => rfl
  | poll now => rfl

/-! ### The priority bits -/

/-- Settles O44: the class, SA and DA lie in the low 26 bits, and RX_FRAME reads no other bit of the identifier. -/
theorem priorityBitsAreNotRead : Obligations.PriorityBitsAreNotRead := by
  intro now f g s hext hdata hid
  have hsa : sourceAddr f.id = sourceAddr g.id := by
    rw [← BitVec.toNat_inj, toNat_sourceAddr, toNat_sourceAddr]
    omega
  have hda : destAddr f.id = destAddr g.id := by
    rw [← BitVec.toNat_inj, toNat_destAddr, toNat_destAddr]
    omega
  have hclass : classBits f.id = classBits g.id := by
    rw [← BitVec.toNat_inj, classBits_toNat, classBits_toNat]
    omega
  rw [exec_rxFrame, exec_rxFrame]
  simp only [rxClassified, classify, hext, hdata, hsa, hda, hclass]

end Sys2Proof.Machine
end

section
/-! The buffers and O9 (20_memory.md R61), the fragmenter and O11 (41_dt_codec.md R142), and the session table: O15, O16
(43_session_table.md R232, R233). -/

namespace Sys2Proof.Machine

/-! ### Buffers (20_memory.md R61) -/

theorem Memory.readBytes_eq_none_iff (m : Memory) (off n : Nat) :
    Memory.readBytes m off n = none ↔ ∃ a, off ≤ a ∧ a < off + n ∧ Memory.read m a = none := by
  constructor
  · intro hnone
    by_contra hno
    obtain ⟨bytes, hbytes⟩ := Memory.exists_readBytes (m := m) (off := off) (n := n) fun a hlo hhi => by
      obtain ⟨v, hv⟩ := Option.ne_none_iff_exists'.1 fun h => hno ⟨a, hlo, hhi, h⟩
      exact Memory.mem_of_read hv
    exact nomatch hnone.symm.trans hbytes
  · rintro ⟨a, hlo, hhi, hunwritten⟩
    by_contra hsome
    obtain ⟨bytes, hbytes⟩ := Option.ne_none_iff_exists'.1 hsome
    obtain ⟨hlen, hread⟩ := (Memory.readBytes_eq_some_iff ..).1 hbytes
    have ha := hread (a - off) (by omega)
    rw [show off + (a - off) = a by omega, hunwritten, eq_comm, List.getElem?_eq_none_iff] at ha
    omega

/-- Settles O9: the laws of a write of several bytes, and of a read of them. -/
theorem bufferReadsGiveWhatWasWritten : Obligations.BufferReadsGiveWhatWasWritten := by
  intro σ off bytes hwf
  refine ⟨fun hfit => ⟨_, if_pos hfit, rfl, Memory.wf_writeBytes hwf .., Memory.readBytes_writeBytes hwf ..,
    fun a ha => ?_⟩, fun hbeyond => if_neg hbeyond.not_ge, fun n => Memory.readBytes_eq_none_iff ..⟩
  rw [Memory.read_writeBytes hwf, if_neg (by omega)]

/-! ### The fragmenter (41_dt_codec.md R142) -/

/-- Settles O11: FRAG's slice of the payload, padded to seven bytes. -/
theorem fragmentCarriesItsSegment : Obligations.FragmentCarriesItsSegment := by
  intro σ i payload hmin hmax hread hfirst hlast
  have hlen : payload.length = σ.totalLen := ((Memory.readBytes_eq_some_iff ..).1 hread).1
  have hoff := segOff_lt_of_le_numPacketsOf (by omega) hlast
  have hbound := numPacketsOf_bounds σ.totalLen
  refine ⟨_, frag_of_memRead hread hoff.le, dtSeq_dtBytes (by omega) _, ?_⟩
  have hpadding : 7 - ((payload.drop (7 * (i - 1))).take 7).length = 7 - (σ.totalLen - 7 * (i - 1)) := by
    rw [List.length_take, List.length_drop, hlen]
    omega
  rw [← hpadding]
  exact dtPayload_dtBytes i (List.length_take_le ..)

/-! ### The session table (43_session_table.md R232, R233) -/

/-- Is the session in slot i a sender? -/
def isSenderAt (s : State) (i : Nat) : Bool :=
  match slotAt s i with
  | some σ => decide (σ.role = .sender)
  | none => false

/-- Two owners of a CM frame with the same role have the same key. -/
theorem Inv.owner_unique {s : State} {sa da : Addr} {pgn : Pgn} {i j : Nat} (h : Inv s) (hi : i ∈ owners sa da pgn s)
    (hj : j ∈ owners sa da pgn s) (hrole : isSenderAt s i = isSenderAt s j) : i = j := by
  obtain ⟨σ, hσ, -, hi⟩ := (mem_owners_iff i).1 hi
  obtain ⟨τ, hτ, -, hj⟩ := (mem_owners_iff j).1 hj
  simp only [isSenderAt, hσ, hτ, decide_eq_decide] at hrole
  refine h.slot_unique hσ hτ ?_
  rcases hi with ⟨h1, h2, h3⟩ | ⟨h1, h2, h3⟩ <;> rcases hj with ⟨h4, h5, h6⟩ | ⟨h4, h5, h6⟩
  · simp only [sessionKey, *]
  · exact nomatch h4.symm.trans (hrole.1 h1)
  · exact nomatch h1.symm.trans (hrole.2 h4)
  · simp only [sessionKey, *]

/-- Settles O15: owners filters the slots in order; under the invariant it has at most one owner of each role. -/
theorem ownersAreTheMatchingSessions : Obligations.OwnersAreTheMatchingSessions := by
  refine fun s sa da pgn => ⟨mem_owners_iff, List.Pairwise.filter _ List.pairwise_lt_range, fun h => ?_⟩
  have hnodup : ((owners sa da pgn s).map (isSenderAt s)).Nodup :=
    nodup_owners.map_on fun i hi j hj hrole => h.owner_unique hi hj hrole
  have hle := hnodup.length_le_card
  rwa [List.length_map, Fintype.card_bool] at hle

theorem getElem_slots_eq_slotAt {s : State} {i : Nat} (h : i < s.slots.length) : s.slots[i] = slotAt s i := by
  rw [slotAt, List.getD_eq_getElem?_getD, List.getElem?_eq_getElem h, Option.getD_some]

/-- Settles O16: alloc finds the first slot whose valid bit is 0. -/
theorem allocTakesTheLowestFreeSlot : Obligations.AllocTakesTheLowestFreeSlot := by
  refine fun s => ⟨fun i => ?_, ?_⟩
  · rw [alloc, List.findIdx?_eq_some_iff_getElem]
    constructor
    · rintro ⟨hlt, hfree, hbelow⟩
      refine ⟨hlt, ?_, fun j hj => ?_⟩
      · rwa [getElem_slots_eq_slotAt hlt, Option.isNone_iff_eq_none] at hfree
      · have hvalid := hbelow j hj
        rwa [getElem_slots_eq_slotAt (by omega), Bool.not_eq_true, Option.isNone_eq_false_iff] at hvalid
    · rintro ⟨hlt, hfree, hbelow⟩
      refine ⟨hlt, ?_, fun j hj => ?_⟩
      · rw [getElem_slots_eq_slotAt hlt, hfree, Option.isNone_none]
      · rw [getElem_slots_eq_slotAt (by omega), Bool.not_eq_true, Option.isNone_eq_false_iff]
        exact hbelow j hj
  · rw [alloc, List.findIdx?_eq_none_iff, List.forall_mem_iff_getElem]
    refine forall₂_congr fun i hlt => ?_
    rw [getElem_slots_eq_slotAt hlt, Option.isNone_eq_false_iff]

end Sys2Proof.Machine
end

section
/-! Transmission and its failure: O17, O19 (42_session_fsm.md R162, R163); the codes, O21; and the refusals of SEND, BAM,
CTS, DT and RX_FRAME: O27, O32, O34, O41, O43 (43_session_table.md R237, R239, R241, R242, R246). -/

namespace Sys2Proof.Machine

/-! ### Transmission (42_session_fsm.md R162, R163) -/

theorem tx_of_answer {s : State} {r : TxResult} {rest : List TxResult} (h : s.answers = r :: rest) (f : Frame) :
    tx f s = (r, emit (.tx f r) { s with answers := rest }) := by
  simp only [tx, h]

theorem tx_of_no_answer {s : State} (h : s.answers = []) (f : Frame) : tx f s =
    (Config.freeTxResult s.draws, emit (.tx f (Config.freeTxResult s.draws)) { s with draws := s.draws + 1 }) := by
  simp only [tx, h]

/-- Settles O17: what one tx does in every state, and the answer by the list of answers. -/
theorem txRecordsItsFrameAndAnswer : Obligations.TxRecordsItsFrameAndAnswer := by
  refine fun f s => ⟨tx_trace f s, tx_slots f s, tx_clock f s, tx_cfg f s, tx_inputs f s, fun r rest hanswer => ?_,
    fun hnone => ?_⟩
  · rw [tx_of_answer hanswer]
    exact ⟨rfl, rfl⟩
  · rw [tx_of_no_answer hnone]
    exact ⟨hnone, rfl⟩

/-- Settles O19: the abort that follows a failed frame sends none of its own. -/
theorem failedTransmissionEndsTheSession : Obligations.FailedTransmissionEndsTheSession := by
  refine fun i σ f s _ => ⟨stx_of_ok i σ, fun hfailed => ?_⟩
  rw [stx_of_failed i σ hfailed]
  exact ⟨rfl, (slotAt_abort ..).trans (if_pos rfl),
    fun j hj => ((slotAt_abort ..).trans (if_neg hj)).trans (slotAt_tx ..), trace_of_failed_tx ..⟩

/-! ### The codes -/

/-- Settles O21: the closed tables, and the two one-bit fields that tell of an optional one. -/
theorem codesAreTheSpecs : Obligations.CodesAreTheSpecs := by
  refine ⟨by decide, by decide, by decide, by decide, by decide, by decide, ⟨rfl, fun _ => rfl⟩, fun σ => ⟨fun hd => ?_,
    fun t hd => ?_⟩⟩
  · rw [dlArmedBit, hd]
    rfl
  · rw [dlArmedBit, hd]
    rfl

/-! ### Refusals -/

/-- Settles O27: the checks of R237 in their order. -/
theorem sendRefusalsCreateNothing : Obligations.SendRefusalsCreateNothing := by
  rintro now src dst prio pgn payload s s0 rfl
  rw [exec_send]
  refine ⟨fun hbad => ?_, fun hmin hmax hsrc => ?_, fun hmin hmax hsrc hbusy => ?_,
    fun hmin hmax hsrc hfree hfull => ?_⟩
  · rw [sendRule_of_bad_length hbad, ret_eq]
  · rw [hsrc, sendRule_of_global (by omega), ret_eq]
  · rw [sendRule_of_existing (by omega) hsrc hbusy, ret_eq]
  · rw [sendRule_of_full (by omega) hsrc hfree hfull, ret_eq]

/-- Settles O32: SA is tested first, then the checks of R241 in their order. -/
theorem bamRefusalsAreSilent : Obligations.BamRefusalsAreSilent := by
  rintro now sa da len np pgn s s0 rfl
  rw [exec_cmBam]
  refine ⟨fun hbad => ?_, fun hsa hda hmin hmax hnp hbusy => ?_, fun hsa hda hmin hmax hnp hfree hroom => ?_⟩
  · by_cases hsa : sa = 0xFF
    · rw [hsa, fromSource_global, ret_eq]
    · rw [fromSource_of_ne hsa, rxBam_of_bad_fields ((hbad.resolve_left hsa).imp_right validLength_eq_false), ret_eq]
  · rw [fromSource_of_ne hsa, hda, rxBam_of_existing (validLength_eq_true hmin hmax hnp) hbusy, ret_eq]
  · rw [fromSource_of_ne hsa, hda, rxBam_of_no_room (validLength_eq_true hmin hmax hnp) hfree hroom, ret_eq]

/-- A CTS that no owner awaits changes nothing. -/
theorem rxCts_of_ignoring {sa da : Addr} {pgn : Pgn} {s : State} (h : ∀ o ∈ owners sa da pgn s, IgnoresCts s o)
    (n nextSeq : Nat) : rxCts sa da n nextSeq pgn s =
      ret (if owners sa da pgn s = [] then .noSession else .ignored) s := by
  cases hos : owners sa da pgn s with
  | nil => rw [rxCts, hos, if_pos rfl]
  | cons o os =>
    rw [rxCts_of_mem_owners (i := o) (by simp [hos]), foldl_ctsAt_of_ignoring h, if_neg (List.cons_ne_nil o os)]

/-- Settles O34: SA is tested first, then whether there is an owner; no owner awaits the CTS. -/
theorem ctsElsewhereIsIgnored : Obligations.CtsElsewhereIsIgnored := by
  rintro now sa da n nextSeq pgn s s0 rfl hnone
  have hignore : ∀ o ∈ owners sa da pgn (beginCommand now s), IgnoresCts (beginCommand now s) o := by
    intro o ho τ hτ
    by_contra hawaits
    obtain ⟨⟨hrole, hmode, hstate⟩, hwait⟩ := (awaitsCts_eq_true_iff ..).1 (eq_true_of_ne_false hawaits)
    exact hnone o τ hτ ho ⟨hrole, hmode, hstate, hwait⟩
  rw [exec_cmCts]
  by_cases hsa : sa = 0xFF
  · rw [hsa, fromSource_global, if_pos rfl, ret_eq]
  · rw [fromSource_of_ne hsa, if_neg hsa, rxCts_of_ignoring hignore, ret_eq]

/-- Settles O41: SA is tested first, then whether the pair has a receiver. -/
theorem dtWithoutAReceiver : Obligations.DtWithoutAReceiver := by
  rintro now sa da seq p s s0 rfl
  rw [exec_dt]
  refine ⟨fun hsa => ?_, fun hsa hnone => ?_⟩
  · rw [hsa, fromSource_global, ret_eq]
  · rw [fromSource_of_ne hsa, rxDt, hnone, ret_eq]

/-- Settles O43: the class is tested first, then SA. -/
theorem rxFrameRefusals : Obligations.RxFrameRefusals := by
  rintro now f s s0 rfl
  rw [exec_rxFrame]
  refine ⟨fun hnotTp => by rw [rxClassified_of_notTp hnotTp, ret_eq], fun htp hsa => ?_⟩
  cases hclass : classify (beginCommand now s).cfg f with
  | cm => rw [rxClassified_of_class_cm hclass, hsa, fromSource_global, ret_eq]
  | dt => rw [rxClassified_of_class_dt hclass, hsa, fromSource_global, ret_eq]
  | notTp => exact absurd hclass htp

end Sys2Proof.Machine
end
